-- ==== Sys2Proof/Word.lean ====
section
/-! DEFINITION. The word types of the chunk codec block and the four-byte value a type tag, a length field
and a checksum field are made of (00_scope.md R6, R7). -/
namespace Sys2Proof

/-- A byte: "an unsigned 8-bit value, 0 to 255" (R7). Bit 0 is its least significant bit (R6). -/
abbrev Byte := BitVec 8

/-- A 32-bit register's contents (R20). -/
abbrev Word := BitVec 32

/-- One command word `cmd[39:0]` (R86). -/
abbrev CommandWord := BitVec 40

/-- A sequence of exactly four bytes, index 0 first (R7): the value of TAG (R21) and of each 4-byte field of
a record (R81). -/
structure Bytes4 where
  b0 : Byte
  b1 : Byte
  b2 : Byte
  b3 : Byte
deriving DecidableEq, Repr

/-- The four bytes as a byte sequence, in index order (R7). -/
def Bytes4.toList (t : Bytes4) : List Byte := [t.b0, t.b1, t.b2, t.b3]

end Sys2Proof
end

