-- ==== Sys2Proof/Syntax.lean ====
section
/-! DEFINITION. The commands of the block, one constructor per row of spec/opcode_table.json (30_encoding.md R87).
An illegal word (R88) is no row of the table and no constructor: see `Machine/Illegal.lean` and `Machine/Step.lean`. -/
namespace Sys2Proof

/-- The 21 commands of R87 with their operands (R86): format N has none, format B one byte, format W one word. -/
inductive Instr where
  /-- NOP (R210). -/
  | nop
  /-- LDTAG: construct the tag from 4 raw bytes, unchecked (R114). -/
  | ldtag (arg : Word)
  /-- TAGTXT: construct the tag from the text in SB, checked (R115). -/
  | tagtxt
  /-- QVALID: validity query (R116). -/
  | qvalid
  /-- QCRIT: critical query (R117). -/
  | qcrit
  /-- QPUB: public query (R118). -/
  | qpub
  /-- QRSV: reserved-bit-valid query (R119). -/
  | qrsv
  /-- QSAFE: safe-to-copy query (R120). -/
  | qsafe
  /-- TAGSTR: textual-rendering check (R121). -/
  | tagstr
  /-- QLEN: length() (R144). -/
  | qlen
  /-- CSUM: checksum() (R145). -/
  | csum
  /-- ENCODE: the chunk to its wire form, in SB (R146). -/
  | encode
  /-- DECODE: the record in SB to the chunk (R147). -/
  | decode
  /-- PAYSTR: payload text check (R148). -/
  | paystr
  /-- CRCINIT: start a CRC computation (R186). -/
  | crcinit
  /-- CRCB: feed one byte (R187). -/
  | crcb (b : Byte)
  /-- CRCFIN: deliver the checksum (R188). -/
  | crcfin
  /-- CLRP: empty the payload (R211). -/
  | clrp
  /-- PUSHP: append one byte to the payload (R212). -/
  | pushp (b : Byte)
  /-- CLRS: empty the stream buffer (R213). -/
  | clrs
  /-- PUSHS: append one byte to the stream buffer (R214). -/
  | pushs (b : Byte)
deriving DecidableEq, Repr

end Sys2Proof
end

