-- ==== Sys2Proof/WellFormed.lean ====
section
/-! DEFINITION. Well-formedness of what a host can write as a command: the two fields of a command word, checked
against the format of its opcode (30_encoding.md R86, R87, R89). An `Instr` itself is well-formed by its types, since every
operand has exactly its field's width; the raw fields are where an ill-formed term can be written. This check is
written apart from the decoder (`Decode.lean`), and an obligation says that the two agree. -/
namespace Sys2Proof

/-- The two fields of a command word (R86): `op = cmd[39:32]`, `arg = cmd[31:0]`. -/
structure CommandFields where
  op : BitVec 8
  arg : BitVec 32
deriving DecidableEq, Repr

/-- The three formats of R86. -/
inductive Format where
  /-- No operand: all of `arg` must be 0. -/
  | n
  /-- Byte operand: `arg[31:8]` must be 0. -/
  | b
  /-- Word operand: every `arg` is legal. -/
  | w
deriving DecidableEq, Repr

/-- The opcodes of each format (tables of R86 and R87). -/
def Format.opcodes : Format → List Nat
  | .n => [0x00, 0x11, 0x12, 0x13, 0x14, 0x15, 0x16, 0x17, 0x20, 0x21, 0x22, 0x23, 0x24, 0x30, 0x32, 0x40, 0x42]
  | .b => [0x31, 0x41, 0x43]
  | .w => [0x10]

/-- The must-be-zero bits of a format are zero (R86): read as a number, `arg` is 0, or below 2^8, or anything. -/
def Format.argOk : Format → BitVec 32 → Bool
  | .n, arg => arg.toNat == 0
  | .b, arg => arg.toNat < 256
  | .w, _ => true

/-- A pair of fields is well-formed when its opcode has a format and `arg` obeys it (R86, R88). -/
def CommandFields.wellFormed (c : CommandFields) : Bool :=
  [Format.n, Format.b, Format.w].any fun f => f.opcodes.contains c.op.toNat && f.argOk c.arg

end Sys2Proof
end

