-- ==== Sys2Proof/Decode.lean ====
section
/-! DEFINITION. The decoder of a command word, total on all 2^40 words and rejecting by name (30_encoding.md R86 to
R89), and after it the encoder, the mnemonics, and the opcode table as data. -/
namespace Sys2Proof

/-- Why a word is illegal (R88). Both reasons execute as the one command ILLEGAL. -/
inductive Illegal where
  /-- `op` is not one of the 21 opcodes (R89: reserved). -/
  | reservedOpcode (op : BitVec 8)
  /-- A must-be-zero bit of format N or B is nonzero. -/
  | nonzeroArg (op : BitVec 8) (arg : BitVec 32)
deriving DecidableEq, Repr

/-- `op = cmd[39:32]` (R86). -/
def opField (w : CommandWord) : BitVec 8 := w.extractLsb' 32 8

/-- `arg = cmd[31:0]` (R86). -/
def argField (w : CommandWord) : BitVec 32 := w.extractLsb' 0 32

/-- Format N: the command `i` if all of `arg` is 0 (R86, R88). -/
def decodeN (op : BitVec 8) (arg : BitVec 32) (i : Instr) : Except Illegal Instr :=
  if arg = 0#32 then .ok i else .error (.nonzeroArg op arg)

/-- Format B: the command of the byte `arg[7:0]` if `arg[31:8]` is 0 (R86, R88). -/
def decodeB (op : BitVec 8) (arg : BitVec 32) (f : Byte → Instr) : Except Illegal Instr :=
  if arg.extractLsb' 8 24 = 0#24 then .ok (f (arg.extractLsb' 0 8)) else .error (.nonzeroArg op arg)

/-- The command of two fields (R87, R88). -/
def decodeFields (op : BitVec 8) (arg : BitVec 32) : Except Illegal Instr :=
  if op = 0x00#8 then decodeN op arg .nop
  else if op = 0x10#8 then .ok (.ldtag arg)
  else if op = 0x11#8 then decodeN op arg .tagtxt
  else if op = 0x12#8 then decodeN op arg .qvalid
  else if op = 0x13#8 then decodeN op arg .qcrit
  else if op = 0x14#8 then decodeN op arg .qpub
  else if op = 0x15#8 then decodeN op arg .qrsv
  else if op = 0x16#8 then decodeN op arg .qsafe
  else if op = 0x17#8 then decodeN op arg .tagstr
  else if op = 0x20#8 then decodeN op arg .qlen
  else if op = 0x21#8 then decodeN op arg .csum
  else if op = 0x22#8 then decodeN op arg .encode
  else if op = 0x23#8 then decodeN op arg .decode
  else if op = 0x24#8 then decodeN op arg .paystr
  else if op = 0x30#8 then decodeN op arg .crcinit
  else if op = 0x31#8 then decodeB op arg .crcb
  else if op = 0x32#8 then decodeN op arg .crcfin
  else if op = 0x40#8 then decodeN op arg .clrp
  else if op = 0x41#8 then decodeB op arg .pushp
  else if op = 0x42#8 then decodeN op arg .clrs
  else if op = 0x43#8 then decodeB op arg .pushs
  else .error (.reservedOpcode op)

/-- Decoding a command word (R88). -/
def decode (w : CommandWord) : Except Illegal Instr := decodeFields (opField w) (argField w)

/-- The opcode of each command (R87). -/
def Instr.opcode : Instr → BitVec 8
  | .nop => 0x00#8
  | .ldtag _ => 0x10#8
  | .tagtxt => 0x11#8
  | .qvalid => 0x12#8
  | .qcrit => 0x13#8
  | .qpub => 0x14#8
  | .qrsv => 0x15#8
  | .qsafe => 0x16#8
  | .tagstr => 0x17#8
  | .qlen => 0x20#8
  | .csum => 0x21#8
  | .encode => 0x22#8
  | .decode => 0x23#8
  | .paystr => 0x24#8
  | .crcinit => 0x30#8
  | .crcb _ => 0x31#8
  | .crcfin => 0x32#8
  | .clrp => 0x40#8
  | .pushp _ => 0x41#8
  | .clrs => 0x42#8
  | .pushs _ => 0x43#8

/-- The argument field of each command (R86): 0 for format N, the byte in `arg[7:0]` for format B, the word for W. -/
def Instr.argument : Instr → BitVec 32
  | .ldtag arg => arg
  | .crcb b | .pushp b | .pushs b => 0#24 ++ b
  | .nop | .tagtxt | .qvalid | .qcrit | .qpub | .qrsv | .qsafe | .tagstr
  | .qlen | .csum | .encode | .decode | .paystr | .crcinit | .crcfin | .clrp | .clrs => 0#32

/-- The command word of a command (R86, R87). -/
def encode (i : Instr) : CommandWord := i.opcode ++ i.argument

/-- The mnemonic of each command, as spec/opcode_table.json spells it (R87). -/
def Instr.mnemonic : Instr → String
  | .nop => "NOP"
  | .ldtag _ => "LDTAG"
  | .tagtxt => "TAGTXT"
  | .qvalid => "QVALID"
  | .qcrit => "QCRIT"
  | .qpub => "QPUB"
  | .qrsv => "QRSV"
  | .qsafe => "QSAFE"
  | .tagstr => "TAGSTR"
  | .qlen => "QLEN"
  | .csum => "CSUM"
  | .encode => "ENCODE"
  | .decode => "DECODE"
  | .paystr => "PAYSTR"
  | .crcinit => "CRCINIT"
  | .crcb _ => "CRCB"
  | .crcfin => "CRCFIN"
  | .clrp => "CLRP"
  | .pushp _ => "PUSHP"
  | .clrs => "CLRS"
  | .pushs _ => "PUSHS"

/-- One row of spec/opcode_table.json: "a word `w` selects the row when `w & mask = match`" (R87). -/
structure OpcodeRow where
  mnemonic : String
  pattern : CommandWord
  mask : CommandWord
deriving DecidableEq, Repr

/-- The word selects the row (R87). -/
def OpcodeRow.selectedBy (r : OpcodeRow) (w : CommandWord) : Bool := w &&& r.mask == r.pattern

/-- spec/opcode_table.json's `mnemonic`, `match` and `mask`, row by row. -/
def opcodeRows : List OpcodeRow :=
  [ ⟨"NOP", 0x0000000000#40, 0xFFFFFFFFFF#40⟩,
    ⟨"LDTAG", 0x1000000000#40, 0xFF00000000#40⟩,
    ⟨"TAGTXT", 0x1100000000#40, 0xFFFFFFFFFF#40⟩,
    ⟨"QVALID", 0x1200000000#40, 0xFFFFFFFFFF#40⟩,
    ⟨"QCRIT", 0x1300000000#40, 0xFFFFFFFFFF#40⟩,
    ⟨"QPUB", 0x1400000000#40, 0xFFFFFFFFFF#40⟩,
    ⟨"QRSV", 0x1500000000#40, 0xFFFFFFFFFF#40⟩,
    ⟨"QSAFE", 0x1600000000#40, 0xFFFFFFFFFF#40⟩,
    ⟨"TAGSTR", 0x1700000000#40, 0xFFFFFFFFFF#40⟩ ] ++
  [ ⟨"QLEN", 0x2000000000#40, 0xFFFFFFFFFF#40⟩,
    ⟨"CSUM", 0x2100000000#40, 0xFFFFFFFFFF#40⟩,
    ⟨"ENCODE", 0x2200000000#40, 0xFFFFFFFFFF#40⟩,
    ⟨"DECODE", 0x2300000000#40, 0xFFFFFFFFFF#40⟩,
    ⟨"PAYSTR", 0x2400000000#40, 0xFFFFFFFFFF#40⟩ ] ++
  [ ⟨"CRCINIT", 0x3000000000#40, 0xFFFFFFFFFF#40⟩,
    ⟨"CRCB", 0x3100000000#40, 0xFFFFFFFF00#40⟩,
    ⟨"CRCFIN", 0x3200000000#40, 0xFFFFFFFFFF#40⟩ ] ++
  [ ⟨"CLRP", 0x4000000000#40, 0xFFFFFFFFFF#40⟩,
    ⟨"PUSHP", 0x4100000000#40, 0xFFFFFFFF00#40⟩,
    ⟨"CLRS", 0x4200000000#40, 0xFFFFFFFFFF#40⟩,
    ⟨"PUSHS", 0x4300000000#40, 0xFFFFFFFF00#40⟩ ]

/-- The command word whose low `nbits` bits are those of `w`, the rest 0: a command has ONE word, so the table's bit
numbering is the word's own (R86). -/
def tableWord (nbits w : Nat) : CommandWord := BitVec.ofNat 40 (w % 2 ^ nbits)

/-- The command the decoder reads from a table word, or none where it refuses. -/
def decodeTableWord (nbits w : Nat) : Option Instr :=
  match decode (tableWord nbits w) with
  | .ok i => some i
  | .error _ => none

end Sys2Proof
end

