-- ==== Sys2Proof/Config.lean ====
section
/-! DEFINITION. The implementation parameters of the block (00_scope.md R5): "nothing else varies between
implementations". A record of parameters is an argument of the machine, held in the model's `State` and written by no
step, so a statement about every state is a statement about every parameter value. -/
namespace Sys2Proof

/-- The open parameter TAGSTR_MULTIBYTE (R5, R113): whether TAGSTR takes a tag whose bytes are well-formed UTF-8
but not all below 0x80. -/
inductive TagstrMultibyte where
  | reject
  | accept
deriving DecidableEq, Repr, Inhabited

/-- The parameters of one instance (R5). `payCap` is PAY_CAP, a natural number with 0 <= PAY_CAP <= 2^32 - 1. -/
structure Params where
  payCap : Fin 4294967296
  tagstrMultibyte : TagstrMultibyte
deriving DecidableEq, Repr

/-- SB_CAP is "fixed at PAY_CAP + 12 (not independent)" (R5), an exact natural-number sum (R9). -/
def Params.sbCap (p : Params) : Nat := p.payCap.val + 12

/-- TAGSTR_MULTIBYTE of the instance `State.reset` starts: a free value, since R5 leaves it OPEN and "claims should hold for
both" (log 2). -/
opaque Config.tagstrMultibyte : TagstrMultibyte

end Sys2Proof
end

