-- ==== Sys2Proof/Machine/ResetParams.lean ====
section
/-! DEFINITION. The parameters of the instance that `State.reset` starts (00_scope.md R5). -/
namespace Sys2Proof.Machine

/-- PAY_CAP = 2^32 - 1 is R5's "value to take to match PNGME exactly" (DESIGN CHOICE, log 1); TAGSTR_MULTIBYTE is OPEN in R5
and stays free (log 2). No statement rests on either. -/
def resetParams : Params := { payCap := 4294967295, tagstrMultibyte := Config.tagstrMultibyte }

end Sys2Proof.Machine
end

