-- ==== Sys2Proof/Machine/State.lean ====
section
/-! DEFINITION. The state of the machine: the block's ten components (10_state.md R20 to R28), and beside them the two
things R36 says are not state of the block and one step function needs as data: the parameters of the instance and the
host's remaining actions. Everything is plain data. -/
namespace Sys2Proof.Machine

/-- The block has no fault: "no fault, no hang and no stuck state" (60_exceptions.md R245). No meaning raises one. -/
inductive Fault where
deriving DecidableEq, Repr

/-- Why a step gives no meaning. No arm of `exec` is refused and no meaning refuses. -/
inductive Refusal where
  /-- An instruction with no meaning yet, by its mnemonic: raised only by a refused arm of `exec`, of which there is
  none. Safe. -/
  | notModelled (mnemonic : String)
deriving DecidableEq, Repr

/-- The errors a command can raise (60_exceptions.md R231); their codes are `ErrorKind.code`. -/
inductive ErrorKind where
  /-- TAGTXT: SLEN is not 4 (R232). -/
  | wrongLength
  /-- TAGTXT: a text byte is not a letter (R233). -/
  | invalidCharacter
  /-- DECODE: fewer than 12 bytes (R234). -/
  | tooShort
  /-- DECODE: the tag field is not a valid tag (R235). -/
  | invalidTag
  /-- DECODE: fewer than 12 + L bytes (R236). -/
  | truncatedPayload
  /-- DECODE: the computed checksum is not the stored one (R237). -/
  | checksumMismatch
  /-- PAYSTR: the payload is not well-formed UTF-8 (R238). -/
  | notUtf8
  /-- TAGSTR: the tag is not renderable (R239). -/
  | tagNotText
  /-- PUSHP, PUSHS: the buffer is full (R240). -/
  | capacity
  /-- Any illegal command word (R241). -/
  | illegalCommand
deriving DecidableEq, Repr

/-- The valid bytes of a buffer, offset 0 first: "model PAY as a list of length LEN, not as an array with a tail"
(R23, R24; log 7). -/
abbrev Buffer := List Byte

/-- One action of the host between commands (10_state.md R34, 70_reset_and_hazards.md R270). -/
inductive HostAction where
  /-- Present a command word on the command port (R34). -/
  | command (word : CommandWord)
  /-- Apply reset (R270). -/
  | reset
deriving DecidableEq, Repr

/-- The block: the tuple `(TAG, LEN, PAY, SLEN, SB, CRC, RES, STATUS, EXP, ACT)` of R20 "and nothing else". Two block
states are equal exactly when these ten are. -/
structure Block where
  /-- TAG, the current TypeTag (R21). -/
  tag : Bytes4
  /-- LEN, the fill count of PAY (R22). -/
  len : BitVec 32
  /-- PAY, the current payload (R23). -/
  pay : Buffer
  /-- SLEN, the fill count of SB (R24). -/
  slen : BitVec 33
  /-- SB, the stream buffer (R24). -/
  sb : Buffer
  /-- CRC, the running remainder before the final exclusive-or (R25). -/
  crc : Word
  /-- RES, the result register (R26). -/
  res : Word
  /-- STATUS, whose bits 3..0 are ERR and whose other bits are reserved (R27). -/
  status : Word
  /-- EXP, the computed checksum of the last ChecksumMismatch (R28). -/
  exp : Word
  /-- ACT, the stored checksum of the last ChecksumMismatch (R28). -/
  act : Word
deriving DecidableEq, Repr

/-- The machine: the block, the parameters of the instance (00_scope.md R5; R36: not state of the block, written by no
step) and the host's remaining actions, the next first (R4, R34; log 3). -/
structure State extends Block where
  params : Params
  input : List HostAction
deriving DecidableEq, Repr

/-- The block after reset (R37). -/
def Block.reset : Block :=
  { tag := ⟨0#8, 0#8, 0#8, 0#8⟩
    len := 0#32
    pay := []
    slen := 0#33
    sb := []
    crc := 0xFFFFFFFF#32
    res := 0#32
    status := 0#32
    exp := 0#32
    act := 0#32 }

/-- The machine right after reset, for the parameters `p` (R5, R37), the host having presented nothing yet. -/
def State.resetOf (p : Params) : State := { Block.reset with params := p, input := [] }

/-- The machine right after reset (R37), with the parameters of `resetParams` (log 1, 2). -/
def State.reset : State := State.resetOf resetParams

end Sys2Proof.Machine
end

