-- ==== Sys2Proof/Machine/Operands.lean ====
section
/-! DEFINITION. How operands are read: big-endian conversion (00_scope.md R8, 20_memory.md R52), the valid bytes of the
two buffers (R10, R23, R24), one byte of a buffer as the host samples it (10_state.md R35), letters (R11) and well-formed
UTF-8 (R12). -/
namespace Sys2Proof.Machine

/-- `be32(s) = s[0] * 2^24 + s[1] * 2^16 + s[2] * 2^8 + s[3]` (R8): byte 0 is the most significant. -/
def be32 (t : Bytes4) : Word := t.b0 ++ t.b1 ++ t.b2 ++ t.b3

/-- `bytes_be32(v) = [v[31:24], v[23:16], v[15:8], v[7:0]]` (R8). -/
def bytesBe32 (v : Word) : Bytes4 :=
  ⟨v.extractLsb' 24 8, v.extractLsb' 16 8, v.extractLsb' 8 8, v.extractLsb' 0 8⟩

/-- A truth value zero-extended to 32 bits: 1 or 0 (R26, D22). -/
def boolWord (b : Bool) : Word := if b then 1#32 else 0#32

/-- `MemRead(B, a, n)`: the bytes `B[a..a+n)`, defined only inside the valid bytes (R10). -/
def memRead (b : Buffer) (a n : Nat) : Option (List Byte) :=
  if a + n ≤ b.length then some ((b.drop a).take n) else none

/-- `PAY[0..LEN)` (R10). -/
def State.payBytes (s : State) : List Byte := s.pay.take s.len.toNat

/-- `SB[0..SLEN)` (R10). -/
def State.sbBytes (s : State) : List Byte := s.sb.take s.slen.toNat

/-- What the host samples at `PAY[i]` (R35): the byte if `i < LEN`, no value at or beyond the fill count (R23). -/
def State.samplePay (s : State) (i : Nat) : Option Byte := s.payBytes[i]?

/-- What the host samples at `SB[i]` (R35): the byte if `i < SLEN`, no value at or beyond the fill count (R24). -/
def State.sampleSb (s : State) (i : Nat) : Option Byte := s.sbBytes[i]?

/-- A buffer as (address, byte) pairs, addresses rising from 0 (R50). -/
def Memory.cells (b : Buffer) : List Host.Cell := b.zipIdx.map fun c => (c.2, c.1)

/-- The canonical form of a list of cells: addresses strictly rising. An unlisted address reads as no value (R23), so no
entry can equal it. -/
def Memory.wf (m : List Host.Cell) : Bool := decide (m.Pairwise fun x y => x.1 < y.1)

/-- One byte of a list of cells: the value of the first cell of that address, no value where there is none. -/
def Memory.read (m : List Host.Cell) (a : Nat) : Option Byte := (m.find? fun c => c.1 == a).map (·.2)

/-- `is_letter(b)`: 0x41 <= b <= 0x5A or 0x61 <= b <= 0x7A (R11). -/
def isLetter (b : Byte) : Bool :=
  (0x41#8 ≤ b && b ≤ 0x5A#8) || (0x61#8 ≤ b && b ≤ 0x7A#8)

/-- An inclusive range of byte values, as the table of R12 writes it. -/
structure ByteRange where
  lo : Byte
  hi : Byte
deriving DecidableEq, Repr

/-- The byte lies in the range. -/
def ByteRange.contains (r : ByteRange) (b : Byte) : Bool := r.lo ≤ b && b ≤ r.hi

/-- One row of the table of R12: the range of byte 0, and the ranges of the bytes after it. -/
structure Utf8Row where
  lead : ByteRange
  tail : List ByteRange
deriving DecidableEq, Repr

/-- The table of R12, row by row. -/
def utf8Rows : List Utf8Row :=
  [ ⟨⟨0x00, 0x7F⟩, []⟩,
    ⟨⟨0xC2, 0xDF⟩, [⟨0x80, 0xBF⟩]⟩,
    ⟨⟨0xE0, 0xE0⟩, [⟨0xA0, 0xBF⟩, ⟨0x80, 0xBF⟩]⟩,
    ⟨⟨0xE1, 0xEC⟩, [⟨0x80, 0xBF⟩, ⟨0x80, 0xBF⟩]⟩,
    ⟨⟨0xED, 0xED⟩, [⟨0x80, 0x9F⟩, ⟨0x80, 0xBF⟩]⟩,
    ⟨⟨0xEE, 0xEF⟩, [⟨0x80, 0xBF⟩, ⟨0x80, 0xBF⟩]⟩,
    ⟨⟨0xF0, 0xF0⟩, [⟨0x90, 0xBF⟩, ⟨0x80, 0xBF⟩, ⟨0x80, 0xBF⟩]⟩,
    ⟨⟨0xF1, 0xF3⟩, [⟨0x80, 0xBF⟩, ⟨0x80, 0xBF⟩, ⟨0x80, 0xBF⟩]⟩,
    ⟨⟨0xF4, 0xF4⟩, [⟨0x80, 0x8F⟩, ⟨0x80, 0xBF⟩, ⟨0x80, 0xBF⟩]⟩ ]

/-- Reading bytes with the ranges still owed by the group in progress: a group may end the sequence only when nothing is
owed, and a byte that begins a group selects the one row its value lies in (the lead ranges are disjoint). -/
def utf8Scan : List ByteRange → List Byte → Bool
  | [], [] => true
  | _ :: _, [] => false
  | r :: owed, b :: s => r.contains b && utf8Scan owed s
  | [], b :: s =>
    match utf8Rows.find? fun row => row.lead.contains b with
    | some row => utf8Scan row.tail s
    | none => false

/-- `utf8_valid(s)`: the sequence is a concatenation of groups of the table (R12). -/
def utf8Valid (s : List Byte) : Bool := utf8Scan [] s

end Sys2Proof.Machine
end

