-- ==== Sys2Proof/Machine/Ops.lean ====
section
/-! DEFINITION. The shared operations of the block: ending a command with `done` or `raise` (00_scope.md R10,
60_exceptions.md R230, R231, R243), replacing and appending to a buffer (R10, 43_buffers.md R212, R214), and the host's side of
a step: the next action, and reset (10_state.md R34, 70_reset_and_hazards.md R270). -/
namespace Sys2Proof.Machine

/-- The result of one command. -/
abbrev Result := Host.Outcome State Fault Refusal

/-- code(E) (R231). Codes 9 to 13 are unused. -/
def ErrorKind.code : ErrorKind → BitVec 4
  | .wrongLength => 1#4
  | .invalidCharacter => 2#4
  | .tooShort => 3#4
  | .invalidTag => 4#4
  | .truncatedPayload => 5#4
  | .checksumMismatch => 6#4
  | .notUtf8 => 7#4
  | .tagNotText => 8#4
  | .capacity => 14#4
  | .illegalCommand => 15#4

/-- `ERR = STATUS[3:0]` (R27). -/
def State.err (s : State) : BitVec 4 := s.status.extractLsb' 0 4

/-- `STATUS[31:4]`, which is reserved (R27). -/
def State.statusReserved (s : State) : BitVec 28 := s.status.extractLsb' 4 28

/-- `ERR <- c`: STATUS[31:4] is written by no command (R27; log 8). -/
def State.setErr (s : State) (c : BitVec 4) : State := { s with status := s.statusReserved ++ c }

/-- `done`: `ERR <- 0` and the command ends (R10, R230). There is no return from an error: the next command runs
normally and overwrites ERR (R244). -/
def State.done (s : State) : State := s.setErr 0#4

/-- `raise E`: `ERR <- code(E)`, nothing else changes, and the command ends (R10, R243). The one way every error of the
block is taken; ChecksumMismatch writes EXP and ACT before it (`State.raiseMismatch`). -/
def State.raise (e : ErrorKind) (s : State) : State := s.setErr e.code

/-- `EXP <- e; ACT <- a; raise ChecksumMismatch`, in one step (R147, R237). -/
def State.raiseMismatch (expected actual : Word) (s : State) : State :=
  State.raise .checksumMismatch { s with exp := expected, act := actual }

/-- `PAY <- p`, which sets `LEN <- |p|` in the same step (R10). -/
def State.writePay (p : List Byte) (s : State) : State :=
  { s with pay := p, len := BitVec.ofNat 32 p.length }

/-- `SB <- x`, which sets `SLEN <- |x|` in the same step (R10). -/
def State.writeSb (x : List Byte) (s : State) : State :=
  { s with sb := x, slen := BitVec.ofNat 33 x.length }

/-- `MemWrite(PAY, LEN, 1, [b]); LEN <- LEN + 1` (R212). -/
def State.appendPay (b : Byte) (s : State) : State :=
  { s with pay := s.payBytes ++ [b], len := s.len + 1#32 }

/-- `MemWrite(SB, SLEN, 1, [b]); SLEN <- SLEN + 1` (R214). -/
def State.appendSb (b : Byte) (s : State) : State :=
  { s with sb := s.sbBytes ++ [b], slen := s.slen + 1#33 }

/-- `RES <- v` (R26). -/
def State.setRes (v : Word) (s : State) : State := { s with res := v }

/-- The host's next action and the machine with that action taken from its input (R34; log 3). -/
def State.nextAction (s : State) : Option (HostAction × State) :=
  match s.input with
  | [] => none
  | a :: rest => some (a, { s with input := rest })

/-- Reset: the whole block takes its reset state; the parameters "are not state and survive", and the host's further
actions are the host's (R270). -/
def State.hostReset (s : State) : State := { s with toBlock := Block.reset }

/-- The host presents one more command word, ahead of what it would present next (log 9). -/
def State.present (w : CommandWord) (s : State) : State := { s with input := .command w :: s.input }

end Sys2Proof.Machine
end

