-- ==== Sys2Proof/Machine/Buffers.lean ====
section
/-! DEFINITION. The buffer-access family: NOP, CLRP, PUSHP, CLRS, PUSHS (43_buffers.md R210 to R214). -/
namespace Sys2Proof.Machine

/-- NOP (R210): the only effect is `ERR <- 0`. -/
def execNop (s : State) : Result := .next s.done

/-- CLRP (R211): `PAY <- []`, `LEN <- 0`. -/
def execClrp (s : State) : Result := .next (s.writePay []).done

/-- PUSHP (R212): Capacity when LEN >= PAY_CAP, else the byte at offset LEN. -/
def execPushp (b : Byte) (s : State) : Result :=
  .next (if s.params.payCap.val ≤ s.len.toNat then s.raise .capacity else (s.appendPay b).done)

/-- CLRS (R213): `SB <- []`, `SLEN <- 0`. -/
def execClrs (s : State) : Result := .next (s.writeSb []).done

/-- PUSHS (R214): Capacity when SLEN >= SB_CAP, else the byte at offset SLEN. -/
def execPushs (b : Byte) (s : State) : Result :=
  .next (if s.params.sbCap ≤ s.slen.toNat then s.raise .capacity else (s.appendSb b).done)

end Sys2Proof.Machine
end

