-- ==== Sys2Proof/Machine/Flags.lean ====
section
/-! DEFINITION. The pure functions of a type tag (40_typetag.md R110 to R113, 30_encoding.md R84, R85). They are the only
"flags" of the block; none is stored (10_state.md R30). -/
namespace Sys2Proof.Machine

/-- Bit 5, of weight 0x20, of a tag byte: `(t[k] & 0x20) != 0` (R84, R110). -/
def bit5 (b : Byte) : Bool := b &&& 0x20#8 != 0#8

/-- critical(t): bit 5 of byte 0 is 0 (R110). -/
def critical (t : Bytes4) : Bool := !bit5 t.b0

/-- public(t): bit 5 of byte 1 is 0 (R110). -/
def isPublic (t : Bytes4) : Bool := !bit5 t.b1

/-- reserved_ok(t): bit 5 of byte 2 is 0 (R110). -/
def reservedOk (t : Bytes4) : Bool := !bit5 t.b2

/-- safe_to_copy(t): bit 5 of byte 3 is 1, the opposite polarity (R110, R85). -/
def safeToCopy (t : Bytes4) : Bool := bit5 t.b3

/-- all_letters(t) (R111). -/
def allLetters (t : Bytes4) : Bool := isLetter t.b0 && isLetter t.b1 && isLetter t.b2 && isLetter t.b3

/-- tag_valid(t) = all_letters(t) and reserved_ok(t) (R112). -/
def tagValid (t : Bytes4) : Bool := allLetters t && reservedOk t

/-- Every byte of the tag is below 0x80 (R113). -/
def allAscii (t : Bytes4) : Bool := t.toList.all fun b => b < 0x80#8

/-- tag_renderable(t) (R113). Under both values of TAGSTR_MULTIBYTE a tag of bytes below 0x80 is renderable and one that is not
well-formed UTF-8 is not; the tags between are renderable under `accept`. So it is "every byte below 0x80" under `reject`
and `utf8_valid(t)` under `accept` (`tagRenderable_reject`, `tagRenderable_accept`). -/
def tagRenderable (m : TagstrMultibyte) (t : Bytes4) : Bool :=
  allAscii t || (utf8Valid t.toList && m == .accept)

end Sys2Proof.Machine
end

