-- ==== Sys2Proof/Machine/Record.lean ====
section
/-! DEFINITION. The pure functions over chunk values: the checksum, the canonical wire form and its parser (41_chunk.md
R141 to R143; 30_encoding.md R80 to R83). -/
namespace Sys2Proof.Machine

/-- `chunk_crc(t, p) = crc32(t ++ p)` (R141). -/
def chunkCrc (t : Bytes4) (p : List Byte) : Word := crc32 (t.toList ++ p)

/-- `encode(t, p) = bytes_be32(|p|) ++ t ++ p ++ bytes_be32(chunk_crc(t, p))` (R142). -/
def encodeRecord (t : Bytes4) (p : List Byte) : List Byte :=
  (bytesBe32 (BitVec.ofNat 32 p.length)).toList ++ t.toList ++ p ++ (bytesBe32 (chunkCrc t p)).toList

/-- What `decode(s)` returns (R143): a chunk or exactly one error. -/
inductive DecodeResult where
  | chunk (t : Bytes4) (p : List Byte)
  | tooShort
  | invalidTag
  | truncatedPayload
  | checksumMismatch (expected actual : Word)
deriving DecidableEq, Repr

/-- Steps 5 to 7 of R143, on what follows the tag field: the `n` payload bytes, then the stored checksum. (Fewer than
`n + 4` bytes cannot reach here; that arm answers as step 4 would: log 6.) -/
def decodeBody (t : Bytes4) (n : Nat) (rest : List Byte) : DecodeResult :=
  match rest.drop n with
  | c0 :: c1 :: c2 :: c3 :: _ =>
    let p := rest.take n
    let stored := be32 ⟨c0, c1, c2, c3⟩
    let computed := chunkCrc t p
    if computed ≠ stored then .checksumMismatch computed stored else .chunk t p
  | _ => .truncatedPayload

/-- `decode(s)` (R143), its steps in their order; the sum `12 + L` is a natural number (R9). (The last arm cannot be
reached with 12 bytes or more; it answers as step 1 would: log 6.) -/
def decodeRecord (s : List Byte) : DecodeResult :=
  if s.length < 12 then .tooShort
  else
    match s with
    | l0 :: l1 :: l2 :: l3 :: t0 :: t1 :: t2 :: t3 :: rest =>
      let n := (be32 ⟨l0, l1, l2, l3⟩).toNat
      let t : Bytes4 := ⟨t0, t1, t2, t3⟩
      if tagValid t = false then .invalidTag
      else if s.length < 12 + n then .truncatedPayload
      else decodeBody t n rest
    | _ => .tooShort

end Sys2Proof.Machine
end

