-- ==== Sys2Proof/Machine/Chunk.lean ====
section
/-! DEFINITION. The Chunk family: QLEN, CSUM, ENCODE, DECODE, PAYSTR (41_chunk.md R144 to R148). None of them reads or
writes the CRC register (42_crc32.md R191). -/
namespace Sys2Proof.Machine

/-- QLEN (R144): `RES <- LEN`. -/
def execQlen (s : State) : Result := .next (s.setRes s.len).done

/-- CSUM (R145): `RES <- chunk_crc(TAG, PAY[0..LEN))`. -/
def execCsum (s : State) : Result := .next (s.setRes (chunkCrc s.tag s.payBytes)).done

/-- ENCODE (R146): `SB <- encode(TAG, PAY[0..LEN))`, and SLEN with it; the tag is not checked (R83). -/
def execEncode (s : State) : Result := .next (s.writeSb (encodeRecord s.tag s.payBytes)).done

/-- What DECODE does with each result of `decode` (R147): the chunk is replaced on success only. -/
def deliver (r : DecodeResult) (s : State) : State :=
  match r with
  | .tooShort => s.raise .tooShort
  | .invalidTag => s.raise .invalidTag
  | .truncatedPayload => s.raise .truncatedPayload
  | .checksumMismatch e a => s.raiseMismatch e a
  | .chunk t p => (State.writePay p { s with tag := t }).done

/-- DECODE (R147): `decode(SB[0..SLEN))`. -/
def execDecode (s : State) : Result := .next (deliver (decodeRecord s.sbBytes) s)

/-- PAYSTR (R148): a verdict in ERR. -/
def execPaystr (s : State) : Result :=
  .next (if utf8Valid s.payBytes = false then s.raise .notUtf8 else s.done)

end Sys2Proof.Machine
end

