-- ==== Sys2Proof/Machine/Crc32.lean ====
section
/-! DEFINITION. The CRC-32 family: CRCINIT, CRCB, CRCFIN (42_crc32.md R186 to R188), "the only commands that touch the
CRC register". -/
namespace Sys2Proof.Machine

/-- CRCINIT (R186): `CRC <- 0xFFFFFFFF`. -/
def execCrcinit (s : State) : Result := .next (State.done { s with crc := crcInit })

/-- CRCB (R187): `CRC <- crc_step(CRC, b)`. -/
def execCrcb (b : Byte) (s : State) : Result :=
  settled (crcStep s.crc b) fun c => .next (State.done { s with crc := c })

/-- CRCFIN (R188): `RES <- CRC xor 0xFFFFFFFF`; CRC itself is not changed. -/
def execCrcfin (s : State) : Result := .next (s.setRes (s.crc ^^^ crcXorOut)).done

end Sys2Proof.Machine
end

