-- ==== Sys2Proof/Machine/TypeTag.lean ====
section
/-! DEFINITION. The TypeTag family: LDTAG, TAGTXT, QVALID, QCRIT, QPUB, QRSV, QSAFE, TAGSTR (40_typetag.md R114 to
R121). -/
namespace Sys2Proof.Machine

/-- LDTAG (R114): `TAG <- bytes_be32(arg)`, with no validation. -/
def execLdtag (arg : Word) (s : State) : Result := .next (State.done { s with tag := bytesBe32 arg })

/-- The letters test and the load of TAGTXT, on a text of exactly 4 bytes (R115). -/
def loadText (t : Bytes4) (s : State) : State :=
  if allLetters t = false then s.raise .invalidCharacter else State.done { s with tag := t }

/-- TAGTXT (R115): the length first, then the letters; the reserved bit is not tested (C2). (With SLEN = 4 the buffer
holds 4 bytes; the last arm is not reached then: log 6.) -/
def execTagtxt (s : State) : Result :=
  .next (if s.slen ≠ 4#33 then s.raise .wrongLength
    else match s.sbBytes with
      | [b0, b1, b2, b3] => loadText ⟨b0, b1, b2, b3⟩ s
      | _ => s.raise .wrongLength)

/-- A tag query: `RES <- zext_32(answer)`, `done` (R116 to R120). -/
def answerQuery (answer : Bool) (s : State) : State := (s.setRes (boolWord answer)).done

/-- QVALID (R116). -/
def execQvalid (s : State) : Result := .next (answerQuery (tagValid s.tag) s)

/-- QCRIT (R117). -/
def execQcrit (s : State) : Result := .next (answerQuery (critical s.tag) s)

/-- QPUB (R118). -/
def execQpub (s : State) : Result := .next (answerQuery (isPublic s.tag) s)

/-- QRSV (R119). -/
def execQrsv (s : State) : Result := .next (answerQuery (reservedOk s.tag) s)

/-- QSAFE (R120). -/
def execQsafe (s : State) : Result := .next (answerQuery (safeToCopy s.tag) s)

/-- TAGSTR (R121): a verdict in ERR, under the instance's TAGSTR_MULTIBYTE. -/
def execTagstr (s : State) : Result :=
  .next (if tagRenderable s.params.tagstrMultibyte s.tag = false then s.raise .tagNotText else s.done)

end Sys2Proof.Machine
end

