-- ==== Sys2Proof/Machine/Dispatch.lean ====
section
/-! DEFINITION. The meaning of each command, one arm per constructor of `Instr`. -/
namespace Sys2Proof.Machine

def exec (i : Instr) (s : State) : Host.Outcome State Fault Refusal :=
  match i with
  | .nop => Sys2Proof.Machine.execNop s
  | .ldtag arg => Sys2Proof.Machine.execLdtag arg s
  | .tagtxt => Sys2Proof.Machine.execTagtxt s
  | .qvalid => Sys2Proof.Machine.execQvalid s
  | .qcrit => Sys2Proof.Machine.execQcrit s
  | .qpub => Sys2Proof.Machine.execQpub s
  | .qrsv => Sys2Proof.Machine.execQrsv s
  | .qsafe => Sys2Proof.Machine.execQsafe s
  | .tagstr => Sys2Proof.Machine.execTagstr s
  | .qlen => Sys2Proof.Machine.execQlen s
  | .csum => Sys2Proof.Machine.execCsum s
  | .encode => Sys2Proof.Machine.execEncode s
  | .decode => Sys2Proof.Machine.execDecode s
  | .paystr => Sys2Proof.Machine.execPaystr s
  | .crcinit => Sys2Proof.Machine.execCrcinit s
  | .crcb b => Sys2Proof.Machine.execCrcb b s
  | .crcfin => Sys2Proof.Machine.execCrcfin s
  | .clrp => Sys2Proof.Machine.execClrp s
  | .pushp b => Sys2Proof.Machine.execPushp b s
  | .clrs => Sys2Proof.Machine.execClrs s
  | .pushs b => Sys2Proof.Machine.execPushs b s

end Sys2Proof.Machine
end

