-- ==== Sys2Proof/Machine/Illegal.lean ====
section
/-! DEFINITION. What every illegal command word executes as (30_encoding.md R88, 60_exceptions.md R241). -/
namespace Sys2Proof.Machine

/-- ILLEGAL: `raise IllegalCommand`, "nothing else changes" (R88, R241). -/
def execIllegal (s : State) : Result := .next (s.raise .illegalCommand)

end Sys2Proof.Machine
end

