-- ==== Sys2Proof/Machine/Step.lean ====
section
/-! DEFINITION. One step of the machine: the host's next action, executed to completion (00_scope.md R4, 10_state.md R34,
70_reset_and_hazards.md R270). There is no program counter (10_state.md R29). -/
namespace Sys2Proof.Machine

/-- Executing a command word: the command it decodes to, or ILLEGAL (30_encoding.md R88). -/
def runWord (w : CommandWord) (s : State) : Host.Outcome State Fault Refusal :=
  match decode w with
  | .ok i => exec i s
  | .error _ => execIllegal s

/-- One step: the next action of the host is taken from the input and carried out; where the host presents nothing,
nothing happens (R246; log 4). -/
def step (s : State) : Host.Outcome State Fault Refusal :=
  match s.nextAction with
  | none => .next s
  | some (.reset, t) => .next t.hostReset
  | some (.command w, t) => runWord w t

/-- `s` with the table word presented as the next command. -/
def State.withFetchWord (s : State) (nbits w : Nat) : State := s.present (tableWord nbits w)

end Sys2Proof.Machine
end

