-- ==== Sys2Proof/Machine/Instances.lean ====
section
/-! DEFINITION. Several instances of the block: "the product of n independent copies" (60_exceptions.md R249). Each has its
own state, parameters, command sequence and reset. Which instance steps is the caller's choice (log 12). -/
namespace Sys2Proof.Machine

/-- The instances, numbered from 0. -/
abbrev Instances := List State

/-- One step of instance `k`; where there is no such instance, nothing happens. -/
def stepInstance (k : Nat) (m : Instances) : Host.Outcome Instances Fault Refusal :=
  match m[k]? with
  | none => .next m
  | some s =>
    match step s with
    | .next t => .next (m.set k t)
    | .fault r => .fault r
    | .refused r => .refused r

end Sys2Proof.Machine
end

