-- ==== Sys2Proof/Machine/Pseudo.lean ====
section
/-! DEFINITION. The pseudo-commands (30_encoding.md R91), each "stands for the command sequence shown ... and for nothing
else", and the execution of a command sequence, one step each. -/
namespace Sys2Proof.Machine

/-- The commands of a sequence, in order, each from the state the one before it left (20_memory.md R58). -/
def execAll : List Instr → State → Result
  | [], s => .next s
  | i :: rest, s =>
    match exec i s with
    | .next t => execAll rest t
    | .fault r => .fault r
    | .refused r => .refused r

/-- `PAYLOAD s`. -/
def pseudoPayload (x : List Byte) : List Instr := .clrp :: x.map .pushp

/-- `STREAM s`. -/
def pseudoStream (x : List Byte) : List Instr := .clrs :: x.map .pushs

/-- `CHUNK t, s`. -/
def pseudoChunk (t : Word) (x : List Byte) : List Instr := .ldtag t :: pseudoPayload x

/-- `TAGFROM s`. -/
def pseudoTagfrom (x : List Byte) : List Instr := pseudoStream x ++ [.tagtxt]

/-- `CRC32 s`. -/
def pseudoCrc32 (x : List Byte) : List Instr := .crcinit :: x.map .crcb ++ [.crcfin]

/-- `DECODEOF s`. -/
def pseudoDecodeof (x : List Byte) : List Instr := pseudoStream x ++ [.decode]

/-- The host actions that present a command sequence (10_state.md R34). -/
def presentAll (is : List Instr) : List HostAction := is.map fun i => .command (encode i)

end Sys2Proof.Machine
end

