-- ==== Sys2Proof/Safety.lean ====
section
/-! DEFINITION. The vocabulary claims are stated in: the invariant of 10_state.md R33, what a command leaves unchanged, and the
spec's predicates written over numbers and sampled bytes, apart from the functions the meanings call. -/
namespace Sys2Proof.Machine

/-- The codes ERR can take: "0 to 8, 14 and 15; 9 to 13 never occur" (10_state.md R27). -/
def legalErr (c : BitVec 4) : Bool := decide (c.toNat ≤ 8) || c.toNat == 14 || c.toNat == 15

/-- The invariants of R33: (a) LEN = |PAY| <= PAY_CAP, (b) SLEN = |SB| <= SB_CAP, (c) STATUS[31:4] = 0 and ERR a legal code.
(d) holds by the registers' types. -/
structure Invariant (s : State) : Prop where
  len_eq : s.len.toNat = s.pay.length
  pay_le : s.pay.length ≤ s.params.payCap.val
  slen_eq : s.slen.toNat = s.sb.length
  sb_le : s.sb.length ≤ s.params.sbCap
  reserved_zero : s.statusReserved = 0#28
  err_legal : legalErr s.err = true

/-- The ten components of the block (R20), by name. -/
inductive Component where
  | tag | len | pay | slen | sb | crc | res | status | exp | act
deriving DecidableEq, Repr

/-- A component is the same in two states; a buffer is compared through the host's read of one byte (R35), at every
offset. -/
def Agree : Component → State → State → Prop
  | .tag, s, t => t.tag = s.tag
  | .len, s, t => t.len = s.len
  | .pay, s, t => ∀ i, t.samplePay i = s.samplePay i
  | .slen, s, t => t.slen = s.slen
  | .sb, s, t => ∀ i, t.sampleSb i = s.sampleSb i
  | .crc, s, t => t.crc = s.crc
  | .res, s, t => t.res = s.res
  | .status, s, t => t.status = s.status
  | .exp, s, t => t.exp = s.exp
  | .act, s, t => t.act = s.act

/-- Every component but those listed is unchanged, and so are STATUS[31:4], the parameters and the host's remaining
actions. -/
def UnchangedExcept (changed : List Component) (s t : State) : Prop :=
  t.params = s.params ∧ t.input = s.input ∧ t.statusReserved = s.statusReserved ∧
    ∀ c, c ∉ changed → Agree c s t

/-- The "written by" column of the table of R20, but for STATUS, which every command writes. -/
def writers : Component → List String
  | .tag => ["LDTAG", "TAGTXT", "DECODE"]
  | .len => ["CLRP", "PUSHP", "DECODE"]
  | .pay => ["CLRP", "PUSHP", "DECODE"]
  | .slen => ["CLRS", "PUSHS", "ENCODE"]
  | .sb => ["CLRS", "PUSHS", "ENCODE"]
  | .crc => ["CRCINIT", "CRCB"]
  | .res => ["QVALID", "QCRIT", "QPUB", "QRSV", "QSAFE", "QLEN", "CSUM", "CRCFIN"]
  | .status => opcodeRows.map (·.mnemonic)
  | .exp => ["DECODE"]
  | .act => ["DECODE"]

/-- The codes each command can leave in ERR (60_exceptions.md R230, and the "raised by" column of R231). -/
def possibleErr : Instr → List Nat
  | .tagtxt => [0, 1, 2]
  | .decode => [0, 3, 4, 5, 6]
  | .paystr => [0, 7]
  | .tagstr => [0, 8]
  | .pushp _ | .pushs _ => [0, 14]
  | .nop | .ldtag _ | .qvalid | .qcrit | .qpub | .qrsv | .qsafe | .qlen | .csum | .encode
  | .crcinit | .crcb _ | .crcfin | .clrp | .clrs => [0]

/-- "An ASCII letter", by its code (00_scope.md R11). -/
def AsciiLetter (b : Byte) : Prop :=
  (0x41 ≤ b.toNat ∧ b.toNat ≤ 0x5A) ∨ (0x61 ≤ b.toNat ∧ b.toNat ≤ 0x7A)

/-- The digit of weight 2^5 of a byte (R6, 30_encoding.md R84). -/
def digit5 (b : Byte) : Nat := b.toNat / 32 % 2

/-- The tag is valid: four letters and a reserved bit of 0 (40_typetag.md R112). -/
def ValidTag (t : Bytes4) : Prop := (∀ b ∈ t.toList, AsciiLetter b) ∧ digit5 t.b2 = 0

/-- A group of the table of R12: byte 0 in the lead range, and one byte in each further range. -/
def Utf8Group (g : List Byte) : Prop :=
  ∃ row ∈ utf8Rows, List.Forall₂ (fun (r : ByteRange) (b : Byte) => r.lo.toNat ≤ b.toNat ∧ b.toNat ≤ r.hi.toNat)
    (row.lead :: row.tail) g

/-- "The concatenation of zero or more groups, each matching one row of the table" (R12). -/
def Utf8Text (s : List Byte) : Prop := ∃ gs : List (List Byte), (∀ g ∈ gs, Utf8Group g) ∧ gs.flatten = s

/-- SB holds the number `v` in the four bytes at offset `a`, most significant first (20_memory.md R52). -/
def FieldAt (s : State) (a v : Nat) : Prop :=
  ∃ b0 b1 b2 b3 : Byte, s.sampleSb a = some b0 ∧ s.sampleSb (a + 1) = some b1 ∧ s.sampleSb (a + 2) = some b2 ∧
    s.sampleSb (a + 3) = some b3 ∧ b0.toNat * 2 ^ 24 + b1.toNat * 2 ^ 16 + b2.toNat * 2 ^ 8 + b3.toNat = v

/-- SB holds the tag `t` at offsets 4 to 7 (30_encoding.md R81). -/
def TagFieldIs (s : State) (t : Bytes4) : Prop :=
  s.sampleSb 4 = some t.b0 ∧ s.sampleSb 5 = some t.b1 ∧ s.sampleSb 6 = some t.b2 ∧ s.sampleSb 7 = some t.b3

/-- The payload bytes of the record in SB, for the length `n`: `SB[8..8+n)` (R81). -/
def recordPayload (s : State) (n : Nat) : List Byte := (s.sbBytes.drop 8).take n

/-- The bytes a command sequence feeds to the CRC register, in order (42_crc32.md R189). -/
def fedBytes (is : List Instr) : List Byte :=
  is.filterMap fun
    | .crcb b => some b
    | _ => none

end Sys2Proof.Machine
end

