-- ==== Sys2Proof/Certificates/Slice0/Obligations.lean ====
section
/-! DEFINITION. The statements for the provers. Each is about the block for every parameter value: PAY_CAP and
TAGSTR_MULTIBYTE are fields of the state the statement quantifies over. -/

open Sys2Proof Sys2Proof.Machine

/-! ## Encoding (30_encoding.md) -/

/-- Words written out from R86 and R87 decode to the commands they stand for, and words R88 calls illegal are refused by
name (95_test_vectors.md section 2.6). -/
def Obligations.WordsDecodeAsTabulated : Prop :=
  decode 0x0000000000#40 = .ok .nop ∧
  decode 0x1052755374#40 = .ok (.ldtag 0x52755374#32) ∧
  decode 0x10FFFFFFFF#40 = .ok (.ldtag 0xFFFFFFFF#32) ∧
  decode 0x1200000000#40 = .ok .qvalid ∧
  decode 0x2300000000#40 = .ok .decode ∧
  decode 0x31000000FF#40 = .ok (.crcb 0xFF#8) ∧
  decode 0x4100000068#40 = .ok (.pushp 0x68#8) ∧
  decode 0x43000000DE#40 = .ok (.pushs 0xDE#8) ∧
  decode 0x0000000001#40 = .error (.nonzeroArg 0x00#8 0x00000001#32) ∧
  decode 0x3100000100#40 = .error (.nonzeroArg 0x31#8 0x00000100#32) ∧
  decode 0x4400000000#40 = .error (.reservedOpcode 0x44#8) ∧
  decode 0xFFFFFFFFFF#40 = .error (.reservedOpcode 0xFF#8)

/-- Decoding the word of a command gives the command, with every operand at every value (R86, R87). -/
def Obligations.DecodeOfEncodeIsIdentity : Prop :=
  ∀ i : Instr, decode (encode i) = .ok i

/-- A word that decodes to a command is the word of that command: decoding drops no bit (R86, R88). -/
def Obligations.EncodeOfDecodeIsIdentity : Prop :=
  ∀ (w : CommandWord) (i : Instr), decode w = .ok i → encode i = w

/-- A row of the opcode table is selected by exactly the words that decode to its command (R87). -/
def Obligations.DecoderAgreesWithOpcodeTable : Prop :=
  ∀ (w : CommandWord) (r : OpcodeRow), r ∈ opcodeRows →
    (w &&& r.mask = r.pattern ↔ ∃ i, decode w = .ok i ∧ i.mnemonic = r.mnemonic)

/-- A legal word selects exactly one row of the table, an illegal word none (R88). -/
def Obligations.LegalWordSelectsExactlyOneRow : Prop :=
  ∀ w : CommandWord,
    (opcodeRows.filter fun r => r.selectedBy w).length =
      match decode w with
      | .ok _ => 1
      | .error _ => 0

/-- A word is legal exactly when its opcode has a format and its argument obeys it (R86, R88). -/
def Obligations.DecoderAcceptsExactlyWellFormedFields : Prop :=
  ∀ w : CommandWord, (∃ i, decode w = .ok i) ↔
    (CommandFields.mk (opField w) (argField w)).wellFormed = true

/-! ## The step (00_scope.md R4, 60_exceptions.md, 70_reset_and_hazards.md) -/

/-- A presented word that decodes to a command is taken from the input and executed as that command (R4, R34; that the
host's remaining actions are an input list is the model's choice, log 3). -/
def Obligations.StepExecutesPresentedCommand : Prop :=
  ∀ (s : State) (w : CommandWord) (rest : List HostAction) (i : Instr),
    s.input = .command w :: rest → decode w = .ok i → step s = exec i { s with input := rest }

/-- Every illegal word, judged by the formats of R86 and not by the decoder, raises IllegalCommand and changes nothing but
ERR (R88, R241; that the word stands at the head of an input list is the model's choice, log 3). -/
def Obligations.IllegalWordRaisesOnlyIllegalCommand : Prop :=
  ∀ (s : State) (w : CommandWord) (rest : List HostAction),
    s.input = .command w :: rest →
    (CommandFields.mk (opField w) (argField w)).wellFormed = false →
    ∃ t, step s = .next t ∧ t.err.toNat = 15 ∧ UnchangedExcept [.status] { s with input := rest } t

/-- Where the host presents nothing, a step changes nothing (the model's choice, log 4). -/
def Obligations.NothingHappensWithoutHostAction : Prop :=
  ∀ s : State, s.input = [] → step s = .next s

/-- Reset, applied by the host between commands, replaces the ten components by their reset values; the parameters survive
(R270, R37; that the reset stands at the head of an input list is the model's choice, log 3). -/
def Obligations.HostResetRestoresResetState : Prop :=
  ∀ (s : State) (rest : List HostAction), s.input = .reset :: rest →
    ∃ t, step s = .next t ∧ t.tag.toList = [0#8, 0#8, 0#8, 0#8] ∧ t.len.toNat = 0 ∧ (∀ i, t.samplePay i = none) ∧
      t.slen.toNat = 0 ∧ (∀ i, t.sampleSb i = none) ∧ t.crc = 0xFFFFFFFF#32 ∧ t.res = 0#32 ∧ t.status = 0#32 ∧
      t.exp = 0#32 ∧ t.act = 0#32 ∧ t.params = s.params ∧ t.input = rest

/-- The state after reset, for every value of the parameters (R37); `State.reset` is one of these. -/
def Obligations.ResetValues : Prop :=
  (∃ p, State.reset = State.resetOf p) ∧
  ∀ p : Params, (State.resetOf p).tag.toList = [0#8, 0#8, 0#8, 0#8] ∧ (State.resetOf p).len.toNat = 0 ∧
    (State.resetOf p).pay = [] ∧ (State.resetOf p).slen.toNat = 0 ∧ (State.resetOf p).sb = [] ∧
    (State.resetOf p).crc = 0xFFFFFFFF#32 ∧ (State.resetOf p).res = 0#32 ∧ (State.resetOf p).status = 0#32 ∧
    (State.resetOf p).exp = 0#32 ∧ (State.resetOf p).act = 0#32 ∧ (State.resetOf p).params = p

/-- The invariant of R33 holds at reset, for every value of the parameters. -/
def Obligations.ResetSatisfiesInvariant : Prop :=
  (∀ p : Params, Invariant (State.resetOf p)) ∧ Invariant State.reset

/-- Every step, of a command, of an illegal word or of a reset, keeps the invariant of R33. -/
def Obligations.EveryStepKeepsInvariant : Prop :=
  ∀ s t : State, Invariant s → step s = .next t → Invariant t

/-- Every command word, legal or not, has exactly one successor in every state: no step faults or refuses (R245; an
empty input steps too by the model's choice, log 4). -/
def Obligations.EveryStepHasASuccessor : Prop :=
  (∀ s : State, ∃ t, step s = .next t) ∧ ∀ (i : Instr) (s : State), ∃ t, exec i s = .next t

/-- A component is changed by no command outside its "written by" list (table of R20), and no command changes STATUS[31:4], the
parameters or the host's remaining actions. -/
def Obligations.OnlyListedCommandsWriteEachComponent : Prop :=
  ∀ (i : Instr) (s t : State), exec i s = .next t →
    t.params = s.params ∧ t.input = s.input ∧ t.statusReserved = s.statusReserved ∧
      ∀ c : Component, i.mnemonic ∉ writers c → Agree c s t

/-- A command that raises changes ERR, and for ChecksumMismatch EXP and ACT, and nothing else (R243). -/
def Obligations.FailingCommandHasNoPartialEffect : Prop :=
  ∀ (i : Instr) (s t : State), exec i s = .next t → t.err.toNat ≠ 0 →
    (t.err.toNat ≠ 6 → UnchangedExcept [.status] s t) ∧
    (t.err.toNat = 6 → i = .decode ∧ UnchangedExcept [.exp, .act, .status] s t)

/-- Every command writes ERR, with 0 or a code R231 lists for it; one that cannot fail writes 0 (R230, R231). -/
def Obligations.EveryCommandWritesItsOwnErrorCodes : Prop :=
  ∀ (i : Instr) (s t : State), exec i s = .next t → t.err.toNat ∈ possibleErr i

/-- Repeating a failed command without changing its inputs gives the same error again (R244). -/
def Obligations.RepeatedFailureGivesSameError : Prop :=
  ∀ (i : Instr) (s t : State), exec i s = .next t → t.err.toNat ≠ 0 →
    exec i t = .next t

/-- No command reads RES, STATUS, EXP or ACT: from two states that agree on the other components, a command leads to states
that agree on them and on ERR, and each of RES, EXP and ACT either keeps its old value in both runs or ends with the same
value in both (R30, R31). -/
def Obligations.NoCommandReadsResultRegisters : Prop :=
  ∀ (i : Instr) (s s' t t' : State), exec i s = .next t → exec i s' = .next t' →
    s'.params = s.params → s'.tag = s.tag → s'.len = s.len → s'.pay = s.pay → s'.slen = s.slen → s'.sb = s.sb →
    s'.crc = s.crc →
    t'.tag = t.tag ∧ t'.len = t.len ∧ t'.pay = t.pay ∧ t'.slen = t.slen ∧ t'.sb = t.sb ∧ t'.crc = t.crc ∧ t'.err = t.err ∧
    ((t.res = s.res ∧ t'.res = s'.res) ∨ t'.res = t.res) ∧
    ((t.exp = s.exp ∧ t'.exp = s'.exp) ∨ t'.exp = t.exp) ∧
    ((t.act = s.act ∧ t'.act = s'.act) ∨ t'.act = t.act)

/-- Outside the CRC-32 family no command reads or writes the CRC register: it gives the same result whatever CRC holds,
and leaves CRC as it was (R191). -/
def Obligations.OtherFamiliesIgnoreCrcRegister : Prop :=
  ∀ (i : Instr) (s t : State) (c : Word), i.mnemonic ∉ ["CRCINIT", "CRCB", "CRCFIN"] → exec i s = .next t →
    t.crc = s.crc ∧ exec i { s with crc := c } = .next { t with crc := c }

/-- The instance stepped becomes what its own step makes of it, whatever the others hold, every other stays as it was, and
two instances may step in either order (R249; that the instances stand in a list is the model's choice, log 12). -/
def Obligations.InstancesAreIndependent : Prop :=
  ∀ (m : Instances) (j k : Nat), j ≠ k →
    ∃ mj mk both, stepInstance j m = .next mj ∧ stepInstance k m = .next mk ∧
      stepInstance k mj = .next both ∧ stepInstance j mk = .next both ∧
      (∀ s, m[j]? = some s → ∃ t, step s = .next t ∧ mj[j]? = some t) ∧
      (∀ n, n ≠ j → mj[n]? = m[n]?)

/-- The host samples a byte of a buffer exactly at the offsets below its fill count (R35, R23, R24). -/
def Obligations.OnlyValidBytesAreSampled : Prop :=
  ∀ s : State, Invariant s → ∀ i,
    ((∃ b, s.samplePay i = some b) ↔ i < s.len.toNat) ∧ ((∃ b, s.sampleSb i = some b) ↔ i < s.slen.toNat)

/-! ## TypeTag family (40_typetag.md) -/

/-- LDTAG loads the four bytes of its argument, most significant first, with no validation; everything else is unchanged
(R114). -/
def Obligations.LdtagLoadsRawBytes : Prop :=
  ∀ (arg : Word) (s : State),
    (encode (.ldtag arg)).toNat = 0x1000000000 + arg.toNat ∧
    ∃ t, exec (.ldtag arg) s = .next t ∧
      t.tag.b0.toNat = arg.toNat / 2 ^ 24 ∧ t.tag.b1.toNat = arg.toNat / 2 ^ 16 % 2 ^ 8 ∧
      t.tag.b2.toNat = arg.toNat / 2 ^ 8 % 2 ^ 8 ∧ t.tag.b3.toNat = arg.toNat % 2 ^ 8 ∧
      be32 t.tag = arg ∧ t.err.toNat = 0 ∧ UnchangedExcept [.tag, .status] s t

/-- TAGTXT tests the length, then the letters, and loads the text in SB as the tag; a failure leaves TAG as it was
(R115, R232, R233). -/
def Obligations.TagtxtChecksLengthThenLetters : Prop :=
  encode .tagtxt = 0x1100000000#40 ∧
  ∀ s : State, Invariant s →
    ∃ t, exec .tagtxt s = .next t ∧
      (s.slen.toNat ≠ 4 → t.err.toNat = 1 ∧ UnchangedExcept [.status] s t) ∧
      (s.slen.toNat = 4 → (∃ b ∈ s.sb, ¬ AsciiLetter b) → t.err.toNat = 2 ∧ UnchangedExcept [.status] s t) ∧
      (s.slen.toNat = 4 → (∀ b ∈ s.sb, AsciiLetter b) →
        t.err.toNat = 0 ∧ t.tag.toList = s.sb ∧ UnchangedExcept [.tag, .status] s t)

/-- The five tag queries answer 1 or 0 in RES from the bits of TAG, for every TAG, and never fail (R116 to R120, R110,
R112). -/
def Obligations.TagQueriesAnswerFromTagBits : Prop :=
  (encode .qvalid = 0x1200000000#40 ∧ encode .qcrit = 0x1300000000#40 ∧ encode .qpub = 0x1400000000#40 ∧
    encode .qrsv = 0x1500000000#40 ∧ encode .qsafe = 0x1600000000#40) ∧
  ∀ s : State,
    (∃ t, exec .qvalid s = .next t ∧ (ValidTag s.tag → t.res.toNat = 1) ∧ (¬ ValidTag s.tag → t.res.toNat = 0) ∧
      t.err.toNat = 0 ∧ UnchangedExcept [.res, .status] s t) ∧
    (∃ t, exec .qcrit s = .next t ∧ t.res.toNat = 1 - digit5 s.tag.b0 ∧
      t.err.toNat = 0 ∧ UnchangedExcept [.res, .status] s t) ∧
    (∃ t, exec .qpub s = .next t ∧ t.res.toNat = 1 - digit5 s.tag.b1 ∧
      t.err.toNat = 0 ∧ UnchangedExcept [.res, .status] s t) ∧
    (∃ t, exec .qrsv s = .next t ∧ t.res.toNat = 1 - digit5 s.tag.b2 ∧
      t.err.toNat = 0 ∧ UnchangedExcept [.res, .status] s t) ∧
    (∃ t, exec .qsafe s = .next t ∧ t.res.toNat = digit5 s.tag.b3 ∧
      t.err.toNat = 0 ∧ UnchangedExcept [.res, .status] s t)

/-- TAGSTR leaves its verdict in ERR and changes nothing else: 0 for a tag of ASCII bytes, 8 for one that is not
well-formed UTF-8, and for the tags between, what TAGSTR_MULTIBYTE says (R113, R121). -/
def Obligations.TagstrVerdict : Prop :=
  encode .tagstr = 0x1700000000#40 ∧
  ∀ s : State, ∃ t, exec .tagstr s = .next t ∧ UnchangedExcept [.status] s t ∧
    ((∀ b ∈ s.tag.toList, b.toNat < 0x80) → t.err.toNat = 0) ∧
    (¬ Utf8Text s.tag.toList → t.err.toNat = 8) ∧
    (Utf8Text s.tag.toList → (∃ b ∈ s.tag.toList, 0x80 ≤ b.toNat) →
      (s.params.tagstrMultibyte = .reject → t.err.toNat = 8) ∧
      (s.params.tagstrMultibyte = .accept → t.err.toNat = 0))

/-- After a successful TAGTXT every tag byte is a letter, and QVALID answers as QRSV does (R122 (b)). -/
def Obligations.TagFromTextIsValidWhenReservedBitIs : Prop :=
  ∀ s t : State, exec .tagtxt s = .next t → t.err.toNat = 0 →
    (∀ b ∈ t.tag.toList, AsciiLetter b) ∧ ∃ u, exec .qvalid t = .next u ∧ exec .qrsv t = .next u

/-- A valid tag renders, under both values of TAGSTR_MULTIBYTE (R113, R122 (c)). -/
def Obligations.ValidTagRenders : Prop :=
  ∀ s : State, ValidTag s.tag → ∃ t, exec .tagstr s = .next t ∧ t.err.toNat = 0

/-! ## CRC-32 family (42_crc32.md) -/

/-- The table form of one CRC step is the bitwise form, and the table is the loop on 0 to 255 (R184). -/
def Obligations.CrcTableFormEqualsBitwiseForm : Prop :=
  crcTable.length = 256 ∧ (∀ i < 256, crcTable[i]? = some (crcLoop 8 (BitVec.ofNat 32 i))) ∧
  ∀ (c : Word) (b : Byte), crcStepByTable c b = some (crcStep c b)

/-- CRCINIT, CRCB and CRCFIN: the initial value, one step of the generator, the final exclusive-or as the complement; nothing
else changes (R186, R187, R188). The step of CRCB is said by the table form of R184, which the spec marks as derived from
R181. -/
def Obligations.CrcCommandResults : Prop :=
  encode .crcinit = 0x3000000000#40 ∧ encode .crcfin = 0x3200000000#40 ∧
  (∀ b : Byte, (encode (.crcb b)).toNat = 0x3100000000 + b.toNat) ∧
  ∀ s : State,
    (∃ t, exec .crcinit s = .next t ∧ t.crc.toNat = 2 ^ 32 - 1 ∧ t.err.toNat = 0 ∧
      UnchangedExcept [.crc, .status] s t) ∧
    (∀ b : Byte, ∃ t, exec (.crcb b) s = .next t ∧ crcStepByTable s.crc b = some t.crc ∧ t.err.toNat = 0 ∧
      UnchangedExcept [.crc, .status] s t) ∧
    (∃ t, exec .crcfin s = .next t ∧ t.res.toNat = 2 ^ 32 - 1 - s.crc.toNat ∧ t.err.toNat = 0 ∧
      UnchangedExcept [.res, .status] s t)

/-- For each byte, the CRC step is a bijection of the register (R190 (a)). -/
def Obligations.CrcStepIsBijective : Prop :=
  ∀ b : Byte, Function.Bijective fun c : Word => crcStep c b

/-- The CRC step is linear over exclusive-or (R190 (b)). -/
def Obligations.CrcStepIsLinear : Prop :=
  ∀ (c c' : Word) (b b' : Byte), crcStep c b ^^^ crcStep c' b' = crcStep (c ^^^ c') (b ^^^ b')

/-- Two sequences of equal length that differ in exactly one byte have different checksums (R190 (c), C5). -/
def Obligations.OneChangedByteChangesChecksum : Prop :=
  ∀ (p q : List Byte) (b b' : Byte), b ≠ b' → crc32 (p ++ b :: q) ≠ crc32 (p ++ b' :: q)

/-- Feeding a sequence's checksum, least significant byte first, leaves the constant 0xDEBB20E3 (R190 (e), which the
spec marks as general knowledge). -/
def Obligations.ChecksumAppendedLeavesResidue : Prop :=
  ∀ s : List Byte, crcUpdate 0xFFFFFFFF#32 (s ++ (bytesBe32 (crc32 s)).toList.reverse) = 0xDEBB20E3#32

open Polynomial in
/-- The checksum is the complement of the remainder of `M(x) x^32 + I(x) x^(8n)` by the generator polynomial, its bit 0 the
coefficient of x^31 (R185, R180). -/
def Obligations.ChecksumIsPolynomialRemainder : Prop :=
  ∀ (s : List Byte) (M I G : (ZMod 2)[X]),
    M = ∑ k ∈ Finset.range s.length, ∑ j ∈ Finset.range 8,
      (if (s.getD k 0#8).getLsbD j then X ^ (8 * s.length - 1 - (8 * k + j)) else 0) →
    I = ∑ i ∈ Finset.range 32, X ^ i →
    G = X ^ 32 + X ^ 26 + X ^ 23 + X ^ 22 + X ^ 16 + X ^ 12 + X ^ 11 + X ^ 10 + X ^ 8 + X ^ 7 + X ^ 5 + X ^ 4 +
      X ^ 2 + X + 1 →
    (M * X ^ 32 + I * X ^ (8 * s.length)) %ₘ G =
      ∑ i ∈ Finset.range 32, (if (crc32 s).getLsbD i then 0 else X ^ (31 - i))

/-- After CRCINIT and any commands but CRCINIT, CRC is the remainder of the bytes CRCB fed, in order, whatever the other
families did between them, and CRCFIN delivers their checksum (R189, R191, R25). -/
def Obligations.CrcRegisterAccumulatesFedBytes : Prop :=
  ∀ (s : State) (is : List Instr), .crcinit ∉ is →
    ∃ t u, execAll (.crcinit :: is) s = .next t ∧ t.crc = crcUpdate 0xFFFFFFFF#32 (fedBytes is) ∧
      exec .crcfin t = .next u ∧ u.res = crc32 (fedBytes is) ∧ u.crc = t.crc

/-- `CRC32 (TAG ++ PAY[0..LEN))` leaves the same RES as CSUM (R189). -/
def Obligations.Crc32OfChunkBytesEqualsCsum : Prop :=
  ∀ s : State, ∃ t u, execAll (pseudoCrc32 (s.tag.toList ++ s.payBytes)) s = .next t ∧ exec .csum s = .next u ∧
    t.res = u.res ∧ t.res = crc32 (s.tag.toList ++ s.payBytes)

/-! ## Chunk family (41_chunk.md) -/

/-- QLEN and CSUM deliver LEN and the checksum of tag and payload in RES, and change nothing else (R144, R145, R141). -/
def Obligations.QlenAndCsumResults : Prop :=
  encode .qlen = 0x2000000000#40 ∧ encode .csum = 0x2100000000#40 ∧
  ∀ s : State,
    (∃ t, exec .qlen s = .next t ∧ t.res.toNat = s.len.toNat ∧ t.err.toNat = 0 ∧
      UnchangedExcept [.res, .status] s t) ∧
    (∃ t, exec .csum s = .next t ∧
      t.res = crc32 ([s.tag.b0, s.tag.b1, s.tag.b2, s.tag.b3] ++ s.pay.take s.len.toNat) ∧ t.err.toNat = 0 ∧
      UnchangedExcept [.res, .status] s t)

/-- ENCODE replaces SB by the record: length, tag, payload and checksum at the offsets of R81, 12 + LEN bytes and no
more, whatever the tag (R146, R142, R83). -/
def Obligations.EncodeWritesRecordFields : Prop :=
  encode .encode = 0x2200000000#40 ∧
  ∀ s : State, Invariant s →
    ∃ t, exec .encode s = .next t ∧ t.err.toNat = 0 ∧ UnchangedExcept [.sb, .slen, .status] s t ∧
      t.slen.toNat = 12 + s.len.toNat ∧ FieldAt t 0 s.len.toNat ∧ TagFieldIs t s.tag ∧
      (∀ i < s.len.toNat, t.sampleSb (8 + i) = s.samplePay i) ∧
      FieldAt t (8 + s.len.toNat) (crc32 (s.tag.toList ++ s.pay)).toNat ∧
      (∀ i, 12 + s.len.toNat ≤ i → t.sampleSb i = none)

/-- DECODE makes its tests in their order and the first that fails decides; the chunk is replaced on success only, and
SB never; bytes beyond 12 + L do not matter (R147, R143, R234 to R237). -/
def Obligations.DecodeFollowsItsChecks : Prop :=
  encode .decode = 0x2300000000#40 ∧
  ∀ s : State, Invariant s →
    ∃ t, exec .decode s = .next t ∧
      (s.slen.toNat < 12 → t.err.toNat = 3 ∧ UnchangedExcept [.status] s t) ∧
      ∀ (n : Nat) (g : Bytes4), 12 ≤ s.slen.toNat → FieldAt s 0 n → TagFieldIs s g →
        (¬ ValidTag g → t.err.toNat = 4 ∧ UnchangedExcept [.status] s t) ∧
        (ValidTag g → s.slen.toNat < 12 + n → t.err.toNat = 5 ∧ UnchangedExcept [.status] s t) ∧
        (ValidTag g → 12 + n ≤ s.slen.toNat → ∀ a, FieldAt s (8 + n) a →
          (crc32 (g.toList ++ recordPayload s n)).toNat ≠ a →
            t.err.toNat = 6 ∧ t.exp = crc32 (g.toList ++ recordPayload s n) ∧ t.act.toNat = a ∧
            UnchangedExcept [.exp, .act, .status] s t) ∧
        (ValidTag g → 12 + n ≤ s.slen.toNat → FieldAt s (8 + n) (crc32 (g.toList ++ recordPayload s n)).toNat →
            t.err.toNat = 0 ∧ t.tag = g ∧ t.len.toNat = n ∧ t.pay = recordPayload s n ∧
            (∀ i < n, t.samplePay i = s.sampleSb (8 + i)) ∧ UnchangedExcept [.tag, .len, .pay, .status] s t)

/-- PAYSTR leaves 0 in ERR when the payload is a concatenation of groups of R12's table, 7 when it is not, and changes nothing
else (R148, R238). -/
def Obligations.PaystrVerdict : Prop :=
  encode .paystr = 0x2400000000#40 ∧
  ∀ s : State, ∃ t, exec .paystr s = .next t ∧ UnchangedExcept [.status] s t ∧
    (Utf8Text (s.pay.take s.len.toNat) → t.err.toNat = 0) ∧
    (¬ Utf8Text (s.pay.take s.len.toNat) → t.err.toNat = 7)

/-- The scanner accepts exactly the concatenations of groups of R12's table. -/
def Obligations.Utf8ScannerMatchesTable : Prop :=
  ∀ s : List Byte, utf8Valid s = true ↔ Utf8Text s

/-- The record of a valid tag and a payload below 2^32 bytes decodes to them; the record of a tag that is not valid
fails with InvalidTag (R149, C3). -/
def Obligations.RecordRoundTrip : Prop :=
  ∀ (t : Bytes4) (p : List Byte), p.length < 2 ^ 32 →
    (ValidTag t → decodeRecord (encodeRecord t p) = .chunk t p) ∧
    (¬ ValidTag t → decodeRecord (encodeRecord t p) = .invalidTag)

/-- What decodes is a record: encoding the chunk gives back the bytes it was read from (R149). -/
def Obligations.DecodedBytesAreTheRecord : Prop :=
  ∀ (s : List Byte) (t : Bytes4) (p : List Byte), decodeRecord s = .chunk t p →
    12 + p.length ≤ s.length ∧ encodeRecord t p = s.take (12 + p.length)

/-- On the block, ENCODE then DECODE with a valid tag ends without error and with the same chunk (R149). -/
def Obligations.EncodeThenDecodeKeepsChunk : Prop :=
  ∀ s : State, Invariant s → ValidTag s.tag →
    ∃ t, execAll [.encode, .decode] s = .next t ∧ t.err.toNat = 0 ∧ t.tag = s.tag ∧ t.len = s.len ∧ t.pay = s.pay

/-- Bytes after the record do not change what decodes, and a decode that fails on its tag or on its checksum fails the
same way with more bytes behind it (R150). -/
def Obligations.TrailingBytesAreIgnored : Prop :=
  ∀ (s x : List Byte),
    (∀ t p, decodeRecord s = .chunk t p → decodeRecord (s ++ x) = .chunk t p) ∧
    (decodeRecord s = .invalidTag → decodeRecord (s ++ x) = .invalidTag) ∧
    (∀ e a, decodeRecord s = .checksumMismatch e a → decodeRecord (s ++ x) = .checksumMismatch e a)

/-- A record of a valid tag whose last four bytes are altered fails with ChecksumMismatch, the computed value expected and
the altered value actual (R151). -/
def Obligations.AlteredChecksumIsReported : Prop :=
  ∀ (t : Bytes4) (p : List Byte) (c : Word), p.length < 2 ^ 32 → ValidTag t → c ≠ chunkCrc t p →
    decodeRecord ((encodeRecord t p).take (8 + p.length) ++ (bytesBe32 c).toList) =
      .checksumMismatch (chunkCrc t p) c

/-- After a successful DECODE the tag is valid and the checksum stored in SB is that of the chunk held (R151). -/
def Obligations.DecodedChunkIsSelfConsistent : Prop :=
  ∀ s t : State, Invariant s → exec .decode s = .next t → t.err.toNat = 0 →
    ValidTag t.tag ∧ FieldAt t (8 + t.len.toNat) (crc32 (t.tag.toList ++ t.pay)).toNat

/-! ## Buffer-access family (43_buffers.md) -/

/-- NOP writes 0 to ERR and changes nothing else (R210). -/
def Obligations.NopOnlyClearsErr : Prop :=
  encode .nop = 0x0000000000#40 ∧
  ∀ s : State, ∃ t, exec .nop s = .next t ∧ t.err.toNat = 0 ∧ UnchangedExcept [.status] s t

/-- CLRP and CLRS empty PAY and SB, each with its fill count, and change nothing else (R211, R213). -/
def Obligations.ClearCommandsEmptyTheirBuffer : Prop :=
  encode .clrp = 0x4000000000#40 ∧ encode .clrs = 0x4200000000#40 ∧
  ∀ s : State,
    (∃ t, exec .clrp s = .next t ∧ t.len.toNat = 0 ∧ (∀ i, t.samplePay i = none) ∧ t.err.toNat = 0 ∧
      UnchangedExcept [.pay, .len, .status] s t) ∧
    (∃ t, exec .clrs s = .next t ∧ t.slen.toNat = 0 ∧ (∀ i, t.sampleSb i = none) ∧ t.err.toNat = 0 ∧
      UnchangedExcept [.sb, .slen, .status] s t)

/-- PUSHP stores its byte at offset LEN and adds one to LEN, or raises Capacity and changes nothing when LEN is PAY_CAP;
no other byte changes (R212, R240). -/
def Obligations.PushpAppendsOrRaisesCapacity : Prop :=
  ∀ (b : Byte) (s : State), Invariant s →
    (encode (.pushp b)).toNat = 0x4100000000 + b.toNat ∧
    ∃ t, exec (.pushp b) s = .next t ∧
      (s.len.toNat < s.params.payCap.val → t.err.toNat = 0 ∧ t.len.toNat = s.len.toNat + 1 ∧
        t.samplePay s.len.toNat = some b ∧ (∀ i, i ≠ s.len.toNat → t.samplePay i = s.samplePay i) ∧
        UnchangedExcept [.pay, .len, .status] s t) ∧
      (s.params.payCap.val ≤ s.len.toNat → t.err.toNat = 14 ∧ UnchangedExcept [.status] s t)

/-- PUSHS stores its byte at offset SLEN and adds one to SLEN, or raises Capacity and changes nothing when SLEN is
PAY_CAP + 12; no other byte changes (R214, R240). -/
def Obligations.PushsAppendsOrRaisesCapacity : Prop :=
  ∀ (b : Byte) (s : State), Invariant s →
    (encode (.pushs b)).toNat = 0x4300000000 + b.toNat ∧
    ∃ t, exec (.pushs b) s = .next t ∧
      (s.slen.toNat < s.params.payCap.val + 12 → t.err.toNat = 0 ∧ t.slen.toNat = s.slen.toNat + 1 ∧
        t.sampleSb s.slen.toNat = some b ∧ (∀ i, i ≠ s.slen.toNat → t.sampleSb i = s.sampleSb i) ∧
        UnchangedExcept [.sb, .slen, .status] s t) ∧
      (s.params.payCap.val + 12 ≤ s.slen.toNat → t.err.toNat = 14 ∧ UnchangedExcept [.status] s t)

/-- `CHUNK t, p` from any state holds the chunk of `t` and the first PAY_CAP bytes of `p`; ERR shows Capacity exactly when
`p` is longer (R140, R91). -/
def Obligations.ChunkSequenceConstructsChunk : Prop :=
  ∀ (s : State) (arg : Word) (p : List Byte),
    ∃ t, execAll (pseudoChunk arg p) s = .next t ∧ be32 t.tag = arg ∧ t.pay = p.take s.params.payCap.val ∧
      t.len.toNat = min p.length s.params.payCap.val ∧
      t.err.toNat = (if p.length ≤ s.params.payCap.val then 0 else 14)

/-- `DECODEOF x` from any state decodes the first SB_CAP bytes of `x`: with a record longer than the buffer it never
succeeds on other bytes than those presented (R91, R215). -/
def Obligations.DecodeofDecodesPresentedBytes : Prop :=
  ∀ (s : State) (x : List Byte), ∃ t, execAll (pseudoDecodeof x) s = .next t ∧
    (∀ g p, decodeRecord (x.take (s.params.payCap.val + 12)) = .chunk g p →
      t.err.toNat = 0 ∧ t.tag = g ∧ t.pay = p ∧ t.len.toNat = p.length) ∧
    (decodeRecord (x.take (s.params.payCap.val + 12)) = .tooShort → t.err.toNat = 3) ∧
    (decodeRecord (x.take (s.params.payCap.val + 12)) = .invalidTag → t.err.toNat = 4) ∧
    (decodeRecord (x.take (s.params.payCap.val + 12)) = .truncatedPayload → t.err.toNat = 5) ∧
    (∀ e a, decodeRecord (x.take (s.params.payCap.val + 12)) = .checksumMismatch e a →
      t.err.toNat = 6 ∧ t.exp = e ∧ t.act = a)
end

