-- ==== Sys2Proof/Laws/Bits.lean ====
section
/-! SUPPORT. Reading a field of two concatenated bit vectors gives the field that was put there (00_scope.md R6, R8). -/
namespace Sys2Proof

@[simp] theorem extract_low_append {m n : Nat} (a : BitVec m) (b : BitVec n) : (a ++ b).extractLsb' 0 n = b := by
  ext i hi
  simp [BitVec.getLsbD_append, hi]

@[simp] theorem extract_high_append {m n : Nat} (a : BitVec m) (b : BitVec n) : (a ++ b).extractLsb' n m = a := by
  ext i hi
  simp [BitVec.getLsbD_append, hi]

/-- A bit vector is its high part followed by its low part. -/
theorem append_extract {m n : Nat} (w : BitVec (m + n)) : w.extractLsb' n m ++ w.extractLsb' 0 n = w := by
  ext i hi
  rw [BitVec.getElem_append]
  split
  · simp [BitVec.getLsbD_eq_getElem hi]
  · have : n + (i - n) = i := by omega
    simp [this, BitVec.getLsbD_eq_getElem hi]

/-- Zero-extension keeps the number. -/
@[simp] theorem zero_append_toNat {m n : Nat} (b : BitVec n) : (0#m ++ b).toNat = b.toNat := by
  rw [BitVec.toNat_append]; simp

end Sys2Proof
end

