-- ==== Sys2Proof/Laws/Crc.lean ====
section
/-! SUPPORT. The CRC as a linear map of its register (42_crc32.md R190 (b)), and that a computation can be split at any
byte boundary (R182). -/
namespace Sys2Proof.Machine

theorem crcShift_xor (a b : Word) : crcShift (a ^^^ b) = crcShift a ^^^ crcShift b := by
  simp only [crcShift, BitVec.getLsbD_xor]
  have h : (a ^^^ b) >>> 1 = (a >>> 1) ^^^ (b >>> 1) := BitVec.ushiftRight_xor_distrib a b 1
  cases a.getLsbD 0 <;> cases b.getLsbD 0 <;> simp [h]
  all_goals (ac_nf <;> simp)

theorem crcLoop_xor (n : Nat) (a b : Word) : crcLoop n (a ^^^ b) = crcLoop n a ^^^ crcLoop n b := by
  induction n generalizing a b with
  | zero => rfl
  | succ n ih => simp [crcLoop, crcShift_xor, ih]

@[simp] theorem settled_eq {α : Type} (c : Word) (f : Word → α) : settled c f = f c := by
  have h : BitVec.ofNat 32 c.toNat = c := by simp
  unfold settled
  split
  · rename_i e; rw [← h, e]
  · rename_i n e; rw [← Nat.succ_eq_add_one, ← e, h]

@[simp] theorem crcUpdate_nil (c : Word) : crcUpdate c [] = c := rfl

@[simp] theorem crcUpdate_cons (c : Word) (b : Byte) (s : List Byte) :
    crcUpdate c (b :: s) = crcUpdate (crcStep c b) s := settled_eq _ _

/-- `crc_update(c, s ++ x) = crc_update(crc_update(c, s), x)` (R182). -/
theorem crcUpdate_append (c : Word) (s x : List Byte) : crcUpdate c (s ++ x) = crcUpdate (crcUpdate c s) x := by
  induction s generalizing c with
  | nil => rfl
  | cons b s ih => simp [ih]

end Sys2Proof.Machine
end

