-- ==== Sys2Proof/Laws/Decode.lean ====
section
/-! SUPPORT. The two fields of a command word, and what each format of the decoder does (30_encoding.md R86, R88). -/
namespace Sys2Proof

@[simp] theorem opField_append (op : BitVec 8) (arg : BitVec 32) : opField (op ++ arg) = op :=
  extract_high_append op arg

@[simp] theorem argField_append (op : BitVec 8) (arg : BitVec 32) : argField (op ++ arg) = arg :=
  extract_low_append op arg

/-- A command word is its two fields (R86). -/
theorem fields_append (w : CommandWord) : opField w ++ argField w = w := append_extract (m := 8) (n := 32) w

@[simp] theorem opField_encode (i : Instr) : opField (encode i) = i.opcode := opField_append _ _

@[simp] theorem argField_encode (i : Instr) : argField (encode i) = i.argument := argField_append _ _

theorem decodeN_eq_ok {op : BitVec 8} {arg : BitVec 32} {i j : Instr} :
    decodeN op arg i = .ok j ↔ arg = 0#32 ∧ i = j := by
  unfold decodeN
  split <;> simp_all

/-- Format B accepts exactly the arguments that are a zero-extended byte. -/
theorem decodeB_eq_ok {op : BitVec 8} {arg : BitVec 32} {f : Byte → Instr} {j : Instr} :
    decodeB op arg f = .ok j ↔ ∃ b : Byte, arg = 0#24 ++ b ∧ f b = j := by
  unfold decodeB
  constructor
  · intro h
    split at h
    · next h0 =>
      refine ⟨arg.extractLsb' 0 8, ?_, by simpa using h⟩
      rw [← h0]; exact (append_extract (m := 24) (n := 8) arg).symm
    · cases h
  · rintro ⟨b, rfl, rfl⟩
    rw [extract_high_append, extract_low_append]; simp

/-- The one inversion of the decoder: the fields of a command are its opcode and its argument. -/
theorem decodeFields_ok {op : BitVec 8} {arg : BitVec 32} {i : Instr} (h : decodeFields op arg = .ok i) :
    op = i.opcode ∧ arg = i.argument := by
  unfold decodeFields at h
  repeat'
    rw [ite_eq_iff] at h
    rcases h with ⟨rfl, h⟩ | ⟨-, h⟩
  all_goals first
    | (rw [decodeN_eq_ok] at h; obtain ⟨rfl, rfl⟩ := h; exact ⟨rfl, rfl⟩)
    | (rw [decodeB_eq_ok] at h; obtain ⟨b, rfl, rfl⟩ := h; exact ⟨rfl, rfl⟩)
    | (injection h with h; subst h; exact ⟨rfl, rfl⟩)
    | cases h

end Sys2Proof
end

