-- ==== Sys2Proof/Laws/State.lean ====
section
/-! SUPPORT. One lemma per field per update of State, true by rfl, so that no later proof unfolds a record update; and what
each update does to ERR, to STATUS[31:4] and to the valid bytes of the buffers. -/
namespace Sys2Proof.Machine

variable (s : State)

/-! ### setErr -/
@[simp] theorem State.setErr_tag (c : BitVec 4) : (s.setErr c).tag = s.tag := rfl
@[simp] theorem State.setErr_len (c : BitVec 4) : (s.setErr c).len = s.len := rfl
@[simp] theorem State.setErr_pay (c : BitVec 4) : (s.setErr c).pay = s.pay := rfl
@[simp] theorem State.setErr_slen (c : BitVec 4) : (s.setErr c).slen = s.slen := rfl
@[simp] theorem State.setErr_sb (c : BitVec 4) : (s.setErr c).sb = s.sb := rfl
@[simp] theorem State.setErr_crc (c : BitVec 4) : (s.setErr c).crc = s.crc := rfl
@[simp] theorem State.setErr_res (c : BitVec 4) : (s.setErr c).res = s.res := rfl
@[simp] theorem State.setErr_status (c : BitVec 4) : (s.setErr c).status = s.statusReserved ++ c := rfl
@[simp] theorem State.setErr_exp (c : BitVec 4) : (s.setErr c).exp = s.exp := rfl
@[simp] theorem State.setErr_act (c : BitVec 4) : (s.setErr c).act = s.act := rfl
@[simp] theorem State.setErr_params (c : BitVec 4) : (s.setErr c).params = s.params := rfl
@[simp] theorem State.setErr_input (c : BitVec 4) : (s.setErr c).input = s.input := rfl

/-! ### done -/
@[simp] theorem State.done_tag : (s.done).tag = s.tag := rfl
@[simp] theorem State.done_len : (s.done).len = s.len := rfl
@[simp] theorem State.done_pay : (s.done).pay = s.pay := rfl
@[simp] theorem State.done_slen : (s.done).slen = s.slen := rfl
@[simp] theorem State.done_sb : (s.done).sb = s.sb := rfl
@[simp] theorem State.done_crc : (s.done).crc = s.crc := rfl
@[simp] theorem State.done_res : (s.done).res = s.res := rfl
@[simp] theorem State.done_status : (s.done).status = s.statusReserved ++ 0#4 := rfl
@[simp] theorem State.done_exp : (s.done).exp = s.exp := rfl
@[simp] theorem State.done_act : (s.done).act = s.act := rfl
@[simp] theorem State.done_params : (s.done).params = s.params := rfl
@[simp] theorem State.done_input : (s.done).input = s.input := rfl

/-! ### raise -/
@[simp] theorem State.raise_tag (e : ErrorKind) : (s.raise e).tag = s.tag := rfl
@[simp] theorem State.raise_len (e : ErrorKind) : (s.raise e).len = s.len := rfl
@[simp] theorem State.raise_pay (e : ErrorKind) : (s.raise e).pay = s.pay := rfl
@[simp] theorem State.raise_slen (e : ErrorKind) : (s.raise e).slen = s.slen := rfl
@[simp] theorem State.raise_sb (e : ErrorKind) : (s.raise e).sb = s.sb := rfl
@[simp] theorem State.raise_crc (e : ErrorKind) : (s.raise e).crc = s.crc := rfl
@[simp] theorem State.raise_res (e : ErrorKind) : (s.raise e).res = s.res := rfl
@[simp] theorem State.raise_status (e : ErrorKind) : (s.raise e).status = s.statusReserved ++ e.code := rfl
@[simp] theorem State.raise_exp (e : ErrorKind) : (s.raise e).exp = s.exp := rfl
@[simp] theorem State.raise_act (e : ErrorKind) : (s.raise e).act = s.act := rfl
@[simp] theorem State.raise_params (e : ErrorKind) : (s.raise e).params = s.params := rfl
@[simp] theorem State.raise_input (e : ErrorKind) : (s.raise e).input = s.input := rfl

/-! ### raiseMismatch -/
@[simp] theorem State.raiseMismatch_tag (e a : Word) : (s.raiseMismatch e a).tag = s.tag := rfl
@[simp] theorem State.raiseMismatch_len (e a : Word) : (s.raiseMismatch e a).len = s.len := rfl
@[simp] theorem State.raiseMismatch_pay (e a : Word) : (s.raiseMismatch e a).pay = s.pay := rfl
@[simp] theorem State.raiseMismatch_slen (e a : Word) : (s.raiseMismatch e a).slen = s.slen := rfl
@[simp] theorem State.raiseMismatch_sb (e a : Word) : (s.raiseMismatch e a).sb = s.sb := rfl
@[simp] theorem State.raiseMismatch_crc (e a : Word) : (s.raiseMismatch e a).crc = s.crc := rfl
@[simp] theorem State.raiseMismatch_res (e a : Word) : (s.raiseMismatch e a).res = s.res := rfl
@[simp] theorem State.raiseMismatch_status (e a : Word) : (s.raiseMismatch e a).status = s.statusReserved ++ ErrorKind.checksumMismatch.code := rfl
@[simp] theorem State.raiseMismatch_exp (e a : Word) : (s.raiseMismatch e a).exp = e := rfl
@[simp] theorem State.raiseMismatch_act (e a : Word) : (s.raiseMismatch e a).act = a := rfl
@[simp] theorem State.raiseMismatch_params (e a : Word) : (s.raiseMismatch e a).params = s.params := rfl
@[simp] theorem State.raiseMismatch_input (e a : Word) : (s.raiseMismatch e a).input = s.input := rfl

/-! ### writePay -/
@[simp] theorem State.writePay_tag (p : List Byte) : (s.writePay p).tag = s.tag := rfl
@[simp] theorem State.writePay_len (p : List Byte) : (s.writePay p).len = BitVec.ofNat 32 p.length := rfl
@[simp] theorem State.writePay_pay (p : List Byte) : (s.writePay p).pay = p := rfl
@[simp] theorem State.writePay_slen (p : List Byte) : (s.writePay p).slen = s.slen := rfl
@[simp] theorem State.writePay_sb (p : List Byte) : (s.writePay p).sb = s.sb := rfl
@[simp] theorem State.writePay_crc (p : List Byte) : (s.writePay p).crc = s.crc := rfl
@[simp] theorem State.writePay_res (p : List Byte) : (s.writePay p).res = s.res := rfl
@[simp] theorem State.writePay_status (p : List Byte) : (s.writePay p).status = s.status := rfl
@[simp] theorem State.writePay_exp (p : List Byte) : (s.writePay p).exp = s.exp := rfl
@[simp] theorem State.writePay_act (p : List Byte) : (s.writePay p).act = s.act := rfl
@[simp] theorem State.writePay_params (p : List Byte) : (s.writePay p).params = s.params := rfl
@[simp] theorem State.writePay_input (p : List Byte) : (s.writePay p).input = s.input := rfl

/-! ### writeSb -/
@[simp] theorem State.writeSb_tag (x : List Byte) : (s.writeSb x).tag = s.tag := rfl
@[simp] theorem State.writeSb_len (x : List Byte) : (s.writeSb x).len = s.len := rfl
@[simp] theorem State.writeSb_pay (x : List Byte) : (s.writeSb x).pay = s.pay := rfl
@[simp] theorem State.writeSb_slen (x : List Byte) : (s.writeSb x).slen = BitVec.ofNat 33 x.length := rfl
@[simp] theorem State.writeSb_sb (x : List Byte) : (s.writeSb x).sb = x := rfl
@[simp] theorem State.writeSb_crc (x : List Byte) : (s.writeSb x).crc = s.crc := rfl
@[simp] theorem State.writeSb_res (x : List Byte) : (s.writeSb x).res = s.res := rfl
@[simp] theorem State.writeSb_status (x : List Byte) : (s.writeSb x).status = s.status := rfl
@[simp] theorem State.writeSb_exp (x : List Byte) : (s.writeSb x).exp = s.exp := rfl
@[simp] theorem State.writeSb_act (x : List Byte) : (s.writeSb x).act = s.act := rfl
@[simp] theorem State.writeSb_params (x : List Byte) : (s.writeSb x).params = s.params := rfl
@[simp] theorem State.writeSb_input (x : List Byte) : (s.writeSb x).input = s.input := rfl

/-! ### appendPay -/
@[simp] theorem State.appendPay_tag (b : Byte) : (s.appendPay b).tag = s.tag := rfl
@[simp] theorem State.appendPay_len (b : Byte) : (s.appendPay b).len = s.len + 1#32 := rfl
@[simp] theorem State.appendPay_pay (b : Byte) : (s.appendPay b).pay = s.payBytes ++ [b] := rfl
@[simp] theorem State.appendPay_slen (b : Byte) : (s.appendPay b).slen = s.slen := rfl
@[simp] theorem State.appendPay_sb (b : Byte) : (s.appendPay b).sb = s.sb := rfl
@[simp] theorem State.appendPay_crc (b : Byte) : (s.appendPay b).crc = s.crc := rfl
@[simp] theorem State.appendPay_res (b : Byte) : (s.appendPay b).res = s.res := rfl
@[simp] theorem State.appendPay_status (b : Byte) : (s.appendPay b).status = s.status := rfl
@[simp] theorem State.appendPay_exp (b : Byte) : (s.appendPay b).exp = s.exp := rfl
@[simp] theorem State.appendPay_act (b : Byte) : (s.appendPay b).act = s.act := rfl
@[simp] theorem State.appendPay_params (b : Byte) : (s.appendPay b).params = s.params := rfl
@[simp] theorem State.appendPay_input (b : Byte) : (s.appendPay b).input = s.input := rfl

/-! ### appendSb -/
@[simp] theorem State.appendSb_tag (b : Byte) : (s.appendSb b).tag = s.tag := rfl
@[simp] theorem State.appendSb_len (b : Byte) : (s.appendSb b).len = s.len := rfl
@[simp] theorem State.appendSb_pay (b : Byte) : (s.appendSb b).pay = s.pay := rfl
@[simp] theorem State.appendSb_slen (b : Byte) : (s.appendSb b).slen = s.slen + 1#33 := rfl
@[simp] theorem State.appendSb_sb (b : Byte) : (s.appendSb b).sb = s.sbBytes ++ [b] := rfl
@[simp] theorem State.appendSb_crc (b : Byte) : (s.appendSb b).crc = s.crc := rfl
@[simp] theorem State.appendSb_res (b : Byte) : (s.appendSb b).res = s.res := rfl
@[simp] theorem State.appendSb_status (b : Byte) : (s.appendSb b).status = s.status := rfl
@[simp] theorem State.appendSb_exp (b : Byte) : (s.appendSb b).exp = s.exp := rfl
@[simp] theorem State.appendSb_act (b : Byte) : (s.appendSb b).act = s.act := rfl
@[simp] theorem State.appendSb_params (b : Byte) : (s.appendSb b).params = s.params := rfl
@[simp] theorem State.appendSb_input (b : Byte) : (s.appendSb b).input = s.input := rfl

/-! ### setRes -/
@[simp] theorem State.setRes_tag (v : Word) : (s.setRes v).tag = s.tag := rfl
@[simp] theorem State.setRes_len (v : Word) : (s.setRes v).len = s.len := rfl
@[simp] theorem State.setRes_pay (v : Word) : (s.setRes v).pay = s.pay := rfl
@[simp] theorem State.setRes_slen (v : Word) : (s.setRes v).slen = s.slen := rfl
@[simp] theorem State.setRes_sb (v : Word) : (s.setRes v).sb = s.sb := rfl
@[simp] theorem State.setRes_crc (v : Word) : (s.setRes v).crc = s.crc := rfl
@[simp] theorem State.setRes_res (v : Word) : (s.setRes v).res = v := rfl
@[simp] theorem State.setRes_status (v : Word) : (s.setRes v).status = s.status := rfl
@[simp] theorem State.setRes_exp (v : Word) : (s.setRes v).exp = s.exp := rfl
@[simp] theorem State.setRes_act (v : Word) : (s.setRes v).act = s.act := rfl
@[simp] theorem State.setRes_params (v : Word) : (s.setRes v).params = s.params := rfl
@[simp] theorem State.setRes_input (v : Word) : (s.setRes v).input = s.input := rfl

/-! ### present -/
@[simp] theorem State.present_tag (w : CommandWord) : (s.present w).tag = s.tag := rfl
@[simp] theorem State.present_len (w : CommandWord) : (s.present w).len = s.len := rfl
@[simp] theorem State.present_pay (w : CommandWord) : (s.present w).pay = s.pay := rfl
@[simp] theorem State.present_slen (w : CommandWord) : (s.present w).slen = s.slen := rfl
@[simp] theorem State.present_sb (w : CommandWord) : (s.present w).sb = s.sb := rfl
@[simp] theorem State.present_crc (w : CommandWord) : (s.present w).crc = s.crc := rfl
@[simp] theorem State.present_res (w : CommandWord) : (s.present w).res = s.res := rfl
@[simp] theorem State.present_status (w : CommandWord) : (s.present w).status = s.status := rfl
@[simp] theorem State.present_exp (w : CommandWord) : (s.present w).exp = s.exp := rfl
@[simp] theorem State.present_act (w : CommandWord) : (s.present w).act = s.act := rfl
@[simp] theorem State.present_params (w : CommandWord) : (s.present w).params = s.params := rfl
@[simp] theorem State.present_input (w : CommandWord) : (s.present w).input = .command w :: s.input := rfl

/-! ### hostReset -/
@[simp] theorem State.hostReset_tag : (s.hostReset).tag = ⟨0#8, 0#8, 0#8, 0#8⟩ := rfl
@[simp] theorem State.hostReset_len : (s.hostReset).len = 0#32 := rfl
@[simp] theorem State.hostReset_pay : (s.hostReset).pay = [] := rfl
@[simp] theorem State.hostReset_slen : (s.hostReset).slen = 0#33 := rfl
@[simp] theorem State.hostReset_sb : (s.hostReset).sb = [] := rfl
@[simp] theorem State.hostReset_crc : (s.hostReset).crc = 0xFFFFFFFF#32 := rfl
@[simp] theorem State.hostReset_res : (s.hostReset).res = 0#32 := rfl
@[simp] theorem State.hostReset_status : (s.hostReset).status = 0#32 := rfl
@[simp] theorem State.hostReset_exp : (s.hostReset).exp = 0#32 := rfl
@[simp] theorem State.hostReset_act : (s.hostReset).act = 0#32 := rfl
@[simp] theorem State.hostReset_params : (s.hostReset).params = s.params := rfl
@[simp] theorem State.hostReset_input : (s.hostReset).input = s.input := rfl

/-! ### ERR and STATUS[31:4] -/
@[simp] theorem State.setErr_err (c : BitVec 4) : (s.setErr c).err = c := by
  exact extract_low_append s.statusReserved c

@[simp] theorem State.setErr_statusReserved (c : BitVec 4) : (s.setErr c).statusReserved = s.statusReserved := by
  exact extract_high_append s.statusReserved c

/-- `ERR <- c` keeps only the reserved bits of what STATUS was: a second write replaces the first. -/
@[simp] theorem State.setErr_setErr (c d : BitVec 4) : (s.setErr c).setErr d = s.setErr d := by
  have h := s.setErr_statusReserved c
  simp only [State.setErr] at h ⊢
  rw [h]

@[simp] theorem State.done_err : s.done.err = 0#4 := s.setErr_err 0#4
@[simp] theorem State.raise_err (e : ErrorKind) : (s.raise e).err = e.code := s.setErr_err e.code
@[simp] theorem State.raiseMismatch_err (e a : Word) : (s.raiseMismatch e a).err = 6#4 := State.setErr_err _ _
@[simp] theorem State.done_statusReserved : s.done.statusReserved = s.statusReserved := s.setErr_statusReserved 0#4
@[simp] theorem State.raise_statusReserved (e : ErrorKind) : (s.raise e).statusReserved = s.statusReserved :=
  s.setErr_statusReserved e.code
@[simp] theorem State.raiseMismatch_statusReserved (e a : Word) :
    (s.raiseMismatch e a).statusReserved = s.statusReserved := State.setErr_statusReserved _ _

@[simp] theorem State.writePay_err (p : List Byte) : (s.writePay p).err = s.err := rfl
@[simp] theorem State.writePay_statusReserved (p : List Byte) : (s.writePay p).statusReserved = s.statusReserved := rfl
@[simp] theorem State.writeSb_err (x : List Byte) : (s.writeSb x).err = s.err := rfl
@[simp] theorem State.writeSb_statusReserved (x : List Byte) : (s.writeSb x).statusReserved = s.statusReserved := rfl
@[simp] theorem State.appendPay_err (b : Byte) : (s.appendPay b).err = s.err := rfl
@[simp] theorem State.appendPay_statusReserved (b : Byte) : (s.appendPay b).statusReserved = s.statusReserved := rfl
@[simp] theorem State.appendSb_err (b : Byte) : (s.appendSb b).err = s.err := rfl
@[simp] theorem State.appendSb_statusReserved (b : Byte) : (s.appendSb b).statusReserved = s.statusReserved := rfl
@[simp] theorem State.setRes_err (v : Word) : (s.setRes v).err = s.err := rfl
@[simp] theorem State.setRes_statusReserved (v : Word) : (s.setRes v).statusReserved = s.statusReserved := rfl
@[simp] theorem State.present_err (w : CommandWord) : (s.present w).err = s.err := rfl
@[simp] theorem State.present_statusReserved (w : CommandWord) : (s.present w).statusReserved = s.statusReserved := rfl

/-! ### The valid bytes of the buffers -/
@[simp] theorem State.setErr_payBytes (c : BitVec 4) : (s.setErr c).payBytes = s.payBytes := rfl
@[simp] theorem State.setErr_sbBytes (c : BitVec 4) : (s.setErr c).sbBytes = s.sbBytes := rfl
@[simp] theorem State.done_payBytes : (s.done).payBytes = s.payBytes := rfl
@[simp] theorem State.done_sbBytes : (s.done).sbBytes = s.sbBytes := rfl
@[simp] theorem State.raise_payBytes (e : ErrorKind) : (s.raise e).payBytes = s.payBytes := rfl
@[simp] theorem State.raise_sbBytes (e : ErrorKind) : (s.raise e).sbBytes = s.sbBytes := rfl
@[simp] theorem State.raiseMismatch_payBytes (e a : Word) : (s.raiseMismatch e a).payBytes = s.payBytes := rfl
@[simp] theorem State.raiseMismatch_sbBytes (e a : Word) : (s.raiseMismatch e a).sbBytes = s.sbBytes := rfl
@[simp] theorem State.writePay_sbBytes (p : List Byte) : (s.writePay p).sbBytes = s.sbBytes := rfl
@[simp] theorem State.writeSb_payBytes (x : List Byte) : (s.writeSb x).payBytes = s.payBytes := rfl
@[simp] theorem State.appendPay_sbBytes (b : Byte) : (s.appendPay b).sbBytes = s.sbBytes := rfl
@[simp] theorem State.appendSb_payBytes (b : Byte) : (s.appendSb b).payBytes = s.payBytes := rfl
@[simp] theorem State.setRes_payBytes (v : Word) : (s.setRes v).payBytes = s.payBytes := rfl
@[simp] theorem State.setRes_sbBytes (v : Word) : (s.setRes v).sbBytes = s.sbBytes := rfl
@[simp] theorem State.present_payBytes (w : CommandWord) : (s.present w).payBytes = s.payBytes := rfl
@[simp] theorem State.present_sbBytes (w : CommandWord) : (s.present w).sbBytes = s.sbBytes := rfl
@[simp] theorem State.hostReset_payBytes : (s.hostReset).payBytes = [] := rfl
@[simp] theorem State.hostReset_sbBytes : (s.hostReset).sbBytes = [] := rfl

end Sys2Proof.Machine
end

