-- ==== Sys2Proof/Laws/Dispatch.lean ====
section
/-! SUPPORT. What `exec` and `step` answer, said once: every command answers a next state, named here (60_exceptions.md
R245), so that later proofs speak of that state and never unfold the dispatch. -/
namespace Sys2Proof.Machine

/-- The state a text of four bytes leads TAGTXT to (R115). -/
def tagtxtEffect (s : State) : State :=
  if s.slen ≠ 4#33 then s.raise .wrongLength
  else match s.sbBytes with
    | [b0, b1, b2, b3] => loadText ⟨b0, b1, b2, b3⟩ s
    | _ => s.raise .wrongLength

/-- The next state of each command. -/
def effect : Instr → State → State
  | .nop, s => s.done
  | .ldtag arg, s => State.done { s with tag := bytesBe32 arg }
  | .tagtxt, s => tagtxtEffect s
  | .qvalid, s => answerQuery (tagValid s.tag) s
  | .qcrit, s => answerQuery (critical s.tag) s
  | .qpub, s => answerQuery (isPublic s.tag) s
  | .qrsv, s => answerQuery (reservedOk s.tag) s
  | .qsafe, s => answerQuery (safeToCopy s.tag) s
  | .tagstr, s => if tagRenderable s.params.tagstrMultibyte s.tag = false then s.raise .tagNotText else s.done
  | .qlen, s => (s.setRes s.len).done
  | .csum, s => (s.setRes (chunkCrc s.tag s.payBytes)).done
  | .encode, s => (s.writeSb (encodeRecord s.tag s.payBytes)).done
  | .decode, s => deliver (decodeRecord s.sbBytes) s
  | .paystr, s => if utf8Valid s.payBytes = false then s.raise .notUtf8 else s.done
  | .crcinit, s => State.done { s with crc := crcInit }
  | .crcb b, s => State.done { s with crc := crcStep s.crc b }
  | .crcfin, s => (s.setRes (s.crc ^^^ crcXorOut)).done
  | .clrp, s => (s.writePay []).done
  | .pushp b, s => if s.params.payCap.val ≤ s.len.toNat then s.raise .capacity else (s.appendPay b).done
  | .clrs, s => (s.writeSb []).done
  | .pushs b, s => if s.params.sbCap ≤ s.slen.toNat then s.raise .capacity else (s.appendSb b).done

theorem exec_eq (i : Instr) (s : State) : exec i s = .next (effect i s) := by
  cases i <;> first | rfl | simp [exec, execCrcb, effect]

/-- The one inversion of `exec`. -/
theorem exec_eq_next {i : Instr} {s t : State} (h : exec i s = .next t) : t = effect i s := by
  rw [exec_eq] at h; cases h; rfl

/-- What DECODE's delivery can be: a failure's ERR, a mismatch, or the chunk. -/
theorem deliver_cases (r : DecodeResult) (s : State) :
    (∃ e, (e = .tooShort ∨ e = .invalidTag ∨ e = .truncatedPayload) ∧ deliver r s = s.raise e) ∨
    (∃ e a, r = .checksumMismatch e a ∧ deliver r s = s.raiseMismatch e a) ∨
    (∃ t p, r = .chunk t p ∧ deliver r s = (State.writePay p { s with tag := t }).done) := by
  cases r <;> simp [deliver]

/-- What TAGTXT can do: fail without effect, or load four letters. -/
theorem tagtxtEffect_cases (s : State) :
    tagtxtEffect s = s.raise .wrongLength ∨ tagtxtEffect s = s.raise .invalidCharacter ∨
    ∃ t, allLetters t = true ∧ s.sbBytes = t.toList ∧ tagtxtEffect s = State.done { s with tag := t } := by
  unfold tagtxtEffect
  split
  · exact .inl rfl
  · split
    · next b0 b1 b2 b3 heq =>
      cases hl : allLetters ⟨b0, b1, b2, b3⟩
      · exact .inr (.inl (by simp [loadText, hl]))
      · exact .inr (.inr ⟨⟨b0, b1, b2, b3⟩, hl, heq, by simp [loadText, hl]⟩)
    · exact .inl rfl

/-- The one inversion of `step`. -/
theorem step_cases (s : State) :
    (s.input = [] ∧ step s = .next s) ∨
    (∃ rest, s.input = .reset :: rest ∧ step s = .next { s with input := rest }.hostReset) ∨
    (∃ w rest i, s.input = .command w :: rest ∧ decode w = .ok i ∧
      step s = .next (effect i { s with input := rest })) ∨
    (∃ w rest r, s.input = .command w :: rest ∧ decode w = .error r ∧
      step s = .next ({ s with input := rest }.raise .illegalCommand)) := by
  cases hin : s.input with
  | nil => exact .inl ⟨rfl, by simp [step, State.nextAction, hin]⟩
  | cons a rest =>
    cases a with
    | reset => exact .inr (.inl ⟨rest, rfl, by simp [step, State.nextAction, hin]⟩)
    | command w =>
      cases hd : decode w with
      | ok i => exact .inr (.inr (.inl ⟨w, rest, i, rfl, hd, by simp [step, State.nextAction, hin, runWord, hd, exec_eq]⟩))
      | error r => exact .inr (.inr (.inr ⟨w, rest, r, rfl, hd, by simp [step, State.nextAction, hin, runWord, hd, execIllegal]⟩))

end Sys2Proof.Machine
end

