-- ==== Sys2Proof/Laws/Memory.lean ====
section
/-! SUPPORT. The two buffers as memory: the (address, byte) view is canonical and reads as the list does; every memory
operation keeps "the fill count is the number of bytes held" (10_state.md R22 to R24, R33). -/
namespace Sys2Proof.Machine

/-! ### The (address, byte) view -/

theorem Memory.cells_wf (b : Buffer) : Memory.wf (Memory.cells b) = true := by
  simp only [Memory.wf, Memory.cells, decide_eq_true_eq, List.pairwise_map]
  rw [List.pairwise_iff_getElem]
  intro i j hi hj hij
  simpa using hij

theorem Memory.cells_addresses (b : Buffer) : (Memory.cells b).map (·.1) = List.range b.length := by
  simp [Memory.cells, Function.comp_def, List.range_eq_range', List.zipIdx_map_snd]

theorem Memory.cells_bytes (b : Buffer) : (Memory.cells b).map (·.2) = b := by
  simp [Memory.cells, Function.comp_def, List.zipIdx_map_fst]

/-- Equal memories are equal data: the view loses nothing. -/
theorem Memory.cells_injective : Function.Injective Memory.cells := fun a b h => by
  rw [← Memory.cells_bytes a, ← Memory.cells_bytes b, h]

/-- Reading a byte of the view is reading the list, at every address. -/
theorem Memory.read_cells (b : Buffer) (a : Nat) : Memory.read (Memory.cells b) a = b[a]? := by
  suffices h : ∀ (b : Buffer) (k : Nat),
      ((b.zipIdx k).map fun c => (c.2, c.1)).find? (fun c => c.1 == a) =
        if k ≤ a then b[a - k]?.map fun x => (a, x) else none by
    have := h b 0
    simp only [Nat.zero_le, if_true, Nat.sub_zero] at this
    simp only [Memory.read, Memory.cells, this, Option.map_map]
    cases b[a]? <;> rfl
  intro b
  induction b with
  | nil => intro k; simp
  | cons x b ih =>
    intro k
    rw [List.zipIdx_cons, List.map_cons, List.find?_cons]
    by_cases hk : k = a
    · subst hk; simp
    · have hb : (k == a) = false := by simpa using hk
      simp only [hb, ih]
      by_cases hle : k ≤ a
      · have h1 : k + 1 ≤ a := by omega
        have h2 : a - k = (a - (k + 1)) + 1 := by omega
        simp [hle, h1, h2]
      · have h1 : ¬ k + 1 ≤ a := by omega
        simp [hle, h1]

/-! ### memRead -/

theorem memRead_eq_some {b : Buffer} {a n : Nat} (h : a + n ≤ b.length) :
    memRead b a n = some ((b.drop a).take n) := if_pos h

theorem memRead_length {b : Buffer} {a n : Nat} {x : List Byte} (h : memRead b a n = some x) : x.length = n := by
  simp only [memRead] at h
  split at h
  · cases h; simp; omega
  · cases h

/-! ### The buffers under the invariant -/

theorem Invariant.payBytes_eq {s : State} (h : Invariant s) : s.payBytes = s.pay := by
  simp [State.payBytes, h.len_eq]

theorem Invariant.sbBytes_eq {s : State} (h : Invariant s) : s.sbBytes = s.sb := by
  simp [State.sbBytes, h.slen_eq]

theorem Invariant.len_lt {s : State} (h : Invariant s) : s.pay.length < 2 ^ 32 := by
  have := h.pay_le; have := s.params.payCap.isLt; omega

theorem Invariant.slen_lt {s : State} (h : Invariant s) : s.sb.length < 2 ^ 33 := by
  have := h.sb_le; have := s.params.payCap.isLt; simp only [Params.sbCap] at *; omega

/-! ### What replacing and appending do -/

theorem State.writePay_len_toNat (s : State) {p : List Byte} (h : p.length < 2 ^ 32) :
    (s.writePay p).len.toNat = p.length := by
  simpa using h

theorem State.writeSb_slen_toNat (s : State) {x : List Byte} (h : x.length < 2 ^ 33) :
    (s.writeSb x).slen.toNat = x.length := by
  simpa using h

theorem State.writePay_payBytes (s : State) {p : List Byte} (h : p.length < 2 ^ 32) :
    (s.writePay p).payBytes = p := by
  rw [State.payBytes, s.writePay_len_toNat h]; simp

theorem State.writeSb_sbBytes (s : State) {x : List Byte} (h : x.length < 2 ^ 33) :
    (s.writeSb x).sbBytes = x := by
  rw [State.sbBytes, s.writeSb_slen_toNat h]; simp

/-- Appending below PAY_CAP adds exactly one to LEN, without a wrap (R212). -/
theorem State.appendPay_len_toNat (s : State) (b : Byte) (h : s.len.toNat < s.params.payCap.val) :
    (s.appendPay b).len.toNat = s.len.toNat + 1 := by
  have := s.params.payCap.isLt
  simp only [State.appendPay_len, BitVec.toNat_add, BitVec.toNat_ofNat]
  omega

/-- Appending below SB_CAP adds exactly one to SLEN, without a wrap (R214). -/
theorem State.appendSb_slen_toNat (s : State) (b : Byte) (h : s.slen.toNat < s.params.sbCap) :
    (s.appendSb b).slen.toNat = s.slen.toNat + 1 := by
  have := s.params.payCap.isLt
  simp only [Params.sbCap] at h
  simp only [State.appendSb_slen, BitVec.toNat_add, BitVec.toNat_ofNat]
  omega

/-- Appending below PAY_CAP to a full list puts the byte at offset LEN, after the bytes held (R212). -/
theorem State.appendPay_payBytes (s : State) (b : Byte) (hl : s.len.toNat = s.pay.length)
    (h : s.len.toNat < s.params.payCap.val) : (s.appendPay b).payBytes = s.pay ++ [b] := by
  have hp : s.payBytes = s.pay := by simp [State.payBytes, hl]
  rw [State.payBytes, s.appendPay_len_toNat b h, State.appendPay_pay, hp, hl]
  simp

/-- Appending below SB_CAP to a full list puts the byte at offset SLEN, after the bytes held (R214). -/
theorem State.appendSb_sbBytes (s : State) (b : Byte) (hl : s.slen.toNat = s.sb.length)
    (h : s.slen.toNat < s.params.sbCap) : (s.appendSb b).sbBytes = s.sb ++ [b] := by
  have hp : s.sbBytes = s.sb := by simp [State.sbBytes, hl]
  rw [State.sbBytes, s.appendSb_slen_toNat b h, State.appendSb_sb, hp, hl]
  simp

/-! ### The invariant under each operation -/

theorem ErrorKind.code_legal (e : ErrorKind) : legalErr e.code = true := by cases e <;> decide

theorem Invariant.setErr {s : State} (h : Invariant s) {c : BitVec 4} (hc : legalErr c = true) : Invariant (s.setErr c) where
  len_eq := h.len_eq
  pay_le := h.pay_le
  slen_eq := h.slen_eq
  sb_le := h.sb_le
  reserved_zero := by rw [s.setErr_statusReserved]; exact h.reserved_zero
  err_legal := by rw [s.setErr_err]; exact hc

theorem Invariant.done {s : State} (h : Invariant s) : Invariant s.done := h.setErr (by decide)

theorem Invariant.raise {s : State} (h : Invariant s) (e : ErrorKind) : Invariant (s.raise e) := h.setErr e.code_legal

/-- The invariant speaks of LEN, PAY, SLEN, SB, STATUS and the parameters only. -/
theorem Invariant.of_agree {s t : State} (h : Invariant s) (hl : t.len = s.len) (hp : t.pay = s.pay) (hsl : t.slen = s.slen)
    (hsb : t.sb = s.sb) (hst : t.status = s.status) (hpar : t.params = s.params) : Invariant t := by
  obtain ⟨h1, h2, h3, h4, h5, h6⟩ := h
  constructor <;> simp_all [State.statusReserved, State.err]

theorem Invariant.writePay {s : State} (h : Invariant s) {p : List Byte} (hp : p.length ≤ s.params.payCap.val) :
    Invariant (s.writePay p) where
  len_eq := s.writePay_len_toNat (by have := s.params.payCap.isLt; omega)
  pay_le := hp
  slen_eq := h.slen_eq
  sb_le := h.sb_le
  reserved_zero := h.reserved_zero
  err_legal := h.err_legal

theorem Invariant.writeSb {s : State} (h : Invariant s) {x : List Byte} (hx : x.length ≤ s.params.sbCap) :
    Invariant (s.writeSb x) where
  len_eq := h.len_eq
  pay_le := h.pay_le
  slen_eq := s.writeSb_slen_toNat (by
    have := s.params.payCap.isLt; simp only [Params.sbCap] at hx; omega)
  sb_le := hx
  reserved_zero := h.reserved_zero
  err_legal := h.err_legal

theorem Invariant.appendPay {s : State} (h : Invariant s) (b : Byte) (hr : s.len.toNat < s.params.payCap.val) :
    Invariant (s.appendPay b) where
  len_eq := by
    have hl := h.len_eq
    rw [s.appendPay_len_toNat b hr, State.appendPay_pay, h.payBytes_eq]; simp [hl]
  pay_le := by
    have := h.len_eq
    rw [State.appendPay_pay, h.payBytes_eq]; simp; omega
  slen_eq := h.slen_eq
  sb_le := h.sb_le
  reserved_zero := h.reserved_zero
  err_legal := h.err_legal

theorem Invariant.appendSb {s : State} (h : Invariant s) (b : Byte) (hr : s.slen.toNat < s.params.sbCap) :
    Invariant (s.appendSb b) where
  len_eq := h.len_eq
  pay_le := h.pay_le
  slen_eq := by
    have hl := h.slen_eq
    rw [s.appendSb_slen_toNat b hr, State.appendSb_sb, h.sbBytes_eq]; simp [hl]
  sb_le := by
    have := h.slen_eq
    rw [State.appendSb_sb, h.sbBytes_eq]; simp; omega
  reserved_zero := h.reserved_zero
  err_legal := h.err_legal

end Sys2Proof.Machine
end

