-- ==== Sys2Proof/Laws/Frame.lean ====
section
/-! SUPPORT. Frames: what each shared operation leaves unchanged (60_exceptions.md R243, table of 10_state.md R20). -/
namespace Sys2Proof.Machine

/-- Ending a command changes STATUS only. -/
theorem unchanged_setErr (s : State) (c : BitVec 4) : UnchangedExcept [.status] s (s.setErr c) := by
  refine ⟨rfl, rfl, by simp, fun k hk => ?_⟩
  cases k <;> first | exact rfl | (intro i; exact rfl) | simp at hk

theorem unchanged_done (s : State) : UnchangedExcept [.status] s s.done := unchanged_setErr s _

theorem unchanged_raise (s : State) (e : ErrorKind) : UnchangedExcept [.status] s (s.raise e) := unchanged_setErr s _

/-- A frame with more components left out is weaker. -/
theorem UnchangedExcept.mono {a b : List Component} {s t : State} (h : UnchangedExcept a s t) (hab : a ⊆ b) :
    UnchangedExcept b s t :=
  ⟨h.1, h.2.1, h.2.2.1, fun c hc => h.2.2.2 c fun ha => hc (hab ha)⟩

theorem UnchangedExcept.trans {a b : List Component} {s t u : State} (h : UnchangedExcept a s t)
    (h' : UnchangedExcept b t u) : UnchangedExcept (a ++ b) s u := by
  refine ⟨h'.1.trans h.1, h'.2.1.trans h.2.1, h'.2.2.1.trans h.2.2.1, fun c hc => ?_⟩
  have ha := h.2.2.2 c fun x => hc (List.mem_append_left _ x)
  have hb := h'.2.2.2 c fun x => hc (List.mem_append_right _ x)
  cases c <;> first
    | exact Eq.trans hb ha
    | exact fun i => (hb i).trans (ha i)

theorem unchanged_setRes (s : State) (v : Word) : UnchangedExcept [.res] s (s.setRes v) := by
  refine ⟨rfl, rfl, rfl, fun k hk => ?_⟩
  cases k <;> first | exact rfl | (intro i; exact rfl) | simp at hk

theorem unchanged_tag (s : State) (v : Bytes4) : UnchangedExcept [.tag] s { s with tag := v } := by
  refine ⟨rfl, rfl, rfl, fun k hk => ?_⟩
  cases k <;> first | exact rfl | (intro i; exact rfl) | simp at hk

theorem unchanged_crc (s : State) (v : Word) : UnchangedExcept [.crc] s { s with crc := v } := by
  refine ⟨rfl, rfl, rfl, fun k hk => ?_⟩
  cases k <;> first | exact rfl | (intro i; exact rfl) | simp at hk

theorem unchanged_raiseMismatch (s : State) (e a : Word) :
    UnchangedExcept [.exp, .act, .status] s (s.raiseMismatch e a) := by
  refine ⟨rfl, rfl, by simp, fun k hk => ?_⟩
  cases k <;> first | exact rfl | (intro i; exact rfl) | simp at hk

theorem unchanged_writePay (s : State) (p : List Byte) : UnchangedExcept [.len, .pay] s (s.writePay p) := by
  refine ⟨rfl, rfl, rfl, fun k hk => ?_⟩
  cases k <;> first | exact rfl | (intro i; exact rfl) | simp at hk

theorem unchanged_writeSb (s : State) (x : List Byte) : UnchangedExcept [.slen, .sb] s (s.writeSb x) := by
  refine ⟨rfl, rfl, rfl, fun k hk => ?_⟩
  cases k <;> first | exact rfl | (intro i; exact rfl) | simp at hk

theorem unchanged_appendPay (s : State) (b : Byte) : UnchangedExcept [.len, .pay] s (s.appendPay b) := by
  refine ⟨rfl, rfl, rfl, fun k hk => ?_⟩
  cases k <;> first | exact rfl | (intro i; exact rfl) | simp at hk

theorem unchanged_appendSb (s : State) (b : Byte) : UnchangedExcept [.slen, .sb] s (s.appendSb b) := by
  refine ⟨rfl, rfl, rfl, fun k hk => ?_⟩
  cases k <;> first | exact rfl | (intro i; exact rfl) | simp at hk

/-- A tag query changes RES and STATUS only. -/
theorem unchanged_answerQuery (s : State) (a : Bool) : UnchangedExcept [.res, .status] s (answerQuery a s) :=
  (unchanged_setRes s _).trans (unchanged_done _)

/-- What a query leaves in RES, as a number. -/
@[simp] theorem boolWord_toNat (a : Bool) : (boolWord a).toNat = if a then 1 else 0 := by cases a <;> rfl

@[simp] theorem answerQuery_res (s : State) (a : Bool) : (answerQuery a s).res = boolWord a := rfl
@[simp] theorem answerQuery_err (s : State) (a : Bool) : (answerQuery a s).err = 0#4 := State.done_err _

end Sys2Proof.Machine
end

