-- ==== Sys2Proof/Laws/Instances.lean ====
section
/-! SUPPORT. What `stepInstance` can do, said once (60_exceptions.md R249). -/
namespace Sys2Proof.Machine

/-- Instance `k` becomes what its own step gives. -/
theorem stepInstance_of_step {k : Nat} {m : Instances} {s t : State} (hk : m[k]? = some s) (hs : step s = .next t) :
    stepInstance k m = .next (m.set k t) := by
  simp [stepInstance, hk, hs]

/-- Where there is no instance `k`, nothing happens. -/
theorem stepInstance_of_absent {k : Nat} {m : Instances} (hk : m[k]? = none) : stepInstance k m = .next m := by
  simp [stepInstance, hk]

end Sys2Proof.Machine
end

