-- ==== Sys2Proof/Laws/Operands.lean ====
section
/-! SUPPORT. The operand functions in numbers: big-endian conversion (00_scope.md R8), letters (R11), bit 5 (30_encoding.md R84),
tag validity (40_typetag.md R112), and the UTF-8 scanner against the table of R12, one group at a time. -/
namespace Sys2Proof.Machine

/-! ### Big-endian conversion -/

theorem be32_toNat (t : Bytes4) : (be32 t).toNat =
    t.b0.toNat * 2 ^ 24 + t.b1.toNat * 2 ^ 16 + t.b2.toNat * 2 ^ 8 + t.b3.toNat := by
  have h1 := t.b1.isLt; have h2 := t.b2.isLt; have h3 := t.b3.isLt
  simp only [be32, BitVec.toNat_append]
  rw [← Nat.shiftLeft_add_eq_or_of_lt h3, ← Nat.shiftLeft_add_eq_or_of_lt h2, ← Nat.shiftLeft_add_eq_or_of_lt h1]
  simp only [Nat.shiftLeft_eq]
  omega

theorem bytesBe32_toNat (v : Word) :
    (bytesBe32 v).b0.toNat = v.toNat / 2 ^ 24 ∧ (bytesBe32 v).b1.toNat = v.toNat / 2 ^ 16 % 2 ^ 8 ∧
    (bytesBe32 v).b2.toNat = v.toNat / 2 ^ 8 % 2 ^ 8 ∧ (bytesBe32 v).b3.toNat = v.toNat % 2 ^ 8 := by
  have := v.isLt
  simp only [bytesBe32, BitVec.extractLsb'_toNat, Nat.shiftRight_eq_div_pow]
  refine ⟨?_, trivial, trivial, ?_⟩
  · rw [Nat.mod_eq_of_lt]; omega
  · simp

@[simp] theorem be32_bytesBe32 (v : Word) : be32 (bytesBe32 v) = v := by
  have := v.isLt
  obtain ⟨h0, h1, h2, h3⟩ := bytesBe32_toNat v
  apply BitVec.eq_of_toNat_eq
  rw [be32_toNat, h0, h1, h2, h3]
  omega

@[simp] theorem bytesBe32_be32 (t : Bytes4) : bytesBe32 (be32 t) = t := by
  have b0 := t.b0.isLt; have b1 := t.b1.isLt; have b2 := t.b2.isLt; have b3 := t.b3.isLt
  obtain ⟨h0, h1, h2, h3⟩ := bytesBe32_toNat (be32 t)
  rw [be32_toNat] at h0 h1 h2 h3
  have e : ∀ u : Bytes4, u.b0 = t.b0 → u.b1 = t.b1 → u.b2 = t.b2 → u.b3 = t.b3 → u = t := by
    rintro ⟨⟩ rfl rfl rfl rfl; rfl
  apply e <;> apply BitVec.eq_of_toNat_eq <;> omega

/-! ### Letters, bit 5, tag validity -/

theorem isLetter_iff (b : Byte) : isLetter b = true ↔ AsciiLetter b := by
  simp [isLetter, AsciiLetter, BitVec.le_def]

theorem bit5_eq_digit (b : Byte) : (if bit5 b then 1 else 0) = digit5 b := by
  simp only [digit5, bit5]
  revert b; decide

theorem digit5_le_one (b : Byte) : digit5 b ≤ 1 := by simp only [digit5]; omega

theorem allLetters_iff (t : Bytes4) : allLetters t = true ↔ ∀ b ∈ t.toList, AsciiLetter b := by
  simp [allLetters, Bytes4.toList, isLetter_iff, and_assoc]

theorem reservedOk_iff (t : Bytes4) : reservedOk t = true ↔ digit5 t.b2 = 0 := by
  have := bit5_eq_digit t.b2
  cases h : bit5 t.b2 <;> simp [h] at this <;> simp [reservedOk, h, ← this]

theorem tagValid_iff (t : Bytes4) : tagValid t = true ↔ ValidTag t := by
  simp [tagValid, ValidTag, allLetters_iff, reservedOk_iff]

/-! ### Textual rendering -/

theorem utf8Scan_ascii (b : Byte) (s : List Byte) (h : b < 0x80#8) : utf8Scan [] (b :: s) = utf8Scan [] s := by
  have h1 : b ≤ 0x7F#8 := by bv_omega
  have h0 : 0#8 ≤ b := by bv_omega
  have hf : (utf8Rows.find? fun row => row.lead.contains b) = some ⟨⟨0x00, 0x7F⟩, []⟩ := by
    rw [utf8Rows, List.find?_cons_of_pos (by simp [ByteRange.contains, h0, h1])]
  simp only [utf8Scan, hf]

theorem utf8Valid_of_allAscii (t : Bytes4) (h : allAscii t = true) : utf8Valid t.toList = true := by
  simp only [allAscii, Bytes4.toList, List.all_cons, List.all_nil, Bool.and_true, Bool.and_eq_true, decide_eq_true_eq] at h
  obtain ⟨h0, h1, h2, h3⟩ := h
  simp only [utf8Valid, Bytes4.toList]
  rw [utf8Scan_ascii _ _ h0, utf8Scan_ascii _ _ h1, utf8Scan_ascii _ _ h2, utf8Scan_ascii _ _ h3]
  rfl

@[simp] theorem tagRenderable_reject (t : Bytes4) : tagRenderable .reject t = allAscii t := by
  simp [tagRenderable]

@[simp] theorem tagRenderable_accept (t : Bytes4) : tagRenderable .accept t = utf8Valid t.toList := by
  have := utf8Valid_of_allAscii t
  cases h : allAscii t <;> simp_all [tagRenderable]

end Sys2Proof.Machine
end

