-- ==== Sys2Proof/Laws/PerInstr.lean ====
section
/-! SUPPORT. Facts stated per instruction as syntax, one lemma per constructor. -/

/-- The command word of a command has well-formed fields: its opcode has a format, and its argument obeys it
(30_encoding.md R86). -/
def Sys2Proof.Laws.WellFormedWord.Statement (i : Sys2Proof.Instr) : Prop :=
  (Sys2Proof.CommandFields.mk (Sys2Proof.opField (Sys2Proof.encode i)) (Sys2Proof.argField (Sys2Proof.encode i))).wellFormed = true

namespace Sys2Proof.Laws.WellFormedWord

/-- A command of format N or W is well-formed by evaluation of the check on its fields. -/
theorem of_fields {i : Instr} (h : (CommandFields.mk i.opcode i.argument).wellFormed = true) : Statement i := by
  rw [Statement, opField_encode, argField_encode]; exact h

/-- A command of format B is well-formed: a zero-extended byte is below 2^8. -/
theorem of_byte {i : Instr} (b : Byte) (ho : Format.b.opcodes.contains i.opcode.toNat = true)
    (ha : i.argument = 0#24 ++ b) : Statement i := by
  apply of_fields
  have hb : (0#24 ++ b).toNat < 256 := (zero_append_toNat (m := 24) b).trans_lt b.isLt
  have hf : Format.b.argOk (0#24 ++ b) = true := by simpa [Format.argOk] using hb
  simp only [CommandFields.wellFormed, List.any_cons, ha, ho, hf, Bool.and_self, Bool.true_or, Bool.or_true]

theorem nop : Statement .nop := of_fields (by decide)
theorem ldtag (arg : Word) : Statement (.ldtag arg) := of_fields rfl
theorem tagtxt : Statement .tagtxt := of_fields (by decide)
theorem qvalid : Statement .qvalid := of_fields (by decide)
theorem qcrit : Statement .qcrit := of_fields (by decide)
theorem qpub : Statement .qpub := of_fields (by decide)
theorem qrsv : Statement .qrsv := of_fields (by decide)
theorem qsafe : Statement .qsafe := of_fields (by decide)
theorem tagstr : Statement .tagstr := of_fields (by decide)
theorem qlen : Statement .qlen := of_fields (by decide)
theorem csum : Statement .csum := of_fields (by decide)
theorem encode : Statement .encode := of_fields (by decide)
theorem decode : Statement .decode := of_fields (by decide)
theorem paystr : Statement .paystr := of_fields (by decide)
theorem crcinit : Statement .crcinit := of_fields (by decide)
theorem crcb (b : Byte) : Statement (.crcb b) := of_byte b rfl rfl
theorem crcfin : Statement .crcfin := of_fields (by decide)
theorem clrp : Statement .clrp := of_fields (by decide)
theorem pushp (b : Byte) : Statement (.pushp b) := of_byte b rfl rfl
theorem clrs : Statement .clrs := of_fields (by decide)
theorem pushs (b : Byte) : Statement (.pushs b) := of_byte b rfl rfl

end Sys2Proof.Laws.WellFormedWord
end

