-- ==== Sys2Proof/Laws/Record.lean ====
section
/-! SUPPORT. The record parser on a byte sequence written as its fields, and that every long enough sequence can be written
so (30_encoding.md R81, 41_chunk.md R143). -/
namespace Sys2Proof.Machine

@[simp] theorem Bytes4.toList_length (t : Bytes4) : t.toList.length = 4 := rfl

theorem Bytes4.toList_injective : Function.Injective Bytes4.toList := by
  rintro ⟨⟩ ⟨⟩ h; simpa [Bytes4.toList] using h

/-- Four bytes or more begin with four bytes. -/
theorem exists_bytes4 {s : List Byte} (h : 4 ≤ s.length) : ∃ (t : Bytes4) (r : List Byte), s = t.toList ++ r := by
  match s, h with
  | b0 :: b1 :: b2 :: b3 :: r, _ => exact ⟨⟨b0, b1, b2, b3⟩, r, rfl⟩

/-- Eight bytes or more begin with a length field and a tag field (R81). -/
theorem exists_header {s : List Byte} (h : 8 ≤ s.length) :
    ∃ (l : Word) (t : Bytes4) (rest : List Byte), s = (bytesBe32 l).toList ++ t.toList ++ rest := by
  obtain ⟨a, r, rfl⟩ := exists_bytes4 (s := s) (by omega)
  obtain ⟨t, rest, rfl⟩ := exists_bytes4 (s := r) (by simp at h; omega)
  exact ⟨be32 a, t, rest, by simp⟩

/-- A body of `n + 4` bytes or more is a payload of `n` bytes, a checksum field and trailing bytes (R81). -/
theorem exists_body {rest : List Byte} {n : Nat} (h : n + 4 ≤ rest.length) :
    ∃ (p : List Byte) (c : Word) (x : List Byte), p.length = n ∧ rest = p ++ ((bytesBe32 c).toList ++ x) := by
  obtain ⟨a, x, hx⟩ := exists_bytes4 (s := rest.drop n) (by simp; omega)
  exact ⟨rest.take n, be32 a, x, by simp; omega, by rw [bytesBe32_be32, ← hx, List.take_append_drop]⟩

/-- Steps 1 to 4 of R143 on a sequence given by its header. -/
theorem decodeRecord_header (l : Word) (t : Bytes4) (rest : List Byte) :
    decodeRecord ((bytesBe32 l).toList ++ t.toList ++ rest) =
      if rest.length < 4 then .tooShort
      else if tagValid t = false then .invalidTag
      else if rest.length < l.toNat + 4 then .truncatedPayload
      else decodeBody t l.toNat rest := by
  have hl : be32 ⟨(bytesBe32 l).b0, (bytesBe32 l).b1, (bytesBe32 l).b2, (bytesBe32 l).b3⟩ = l := be32_bytesBe32 l
  have e1 : (8 + rest.length < 12) = (rest.length < 4) := by rw [eq_iff_iff]; omega
  have e2 : (8 + rest.length < 12 + l.toNat) = (rest.length < l.toNat + 4) := by rw [eq_iff_iff]; omega
  have hs : (bytesBe32 l).toList ++ t.toList ++ rest =
      (bytesBe32 l).b0 :: (bytesBe32 l).b1 :: (bytesBe32 l).b2 :: (bytesBe32 l).b3 ::
        t.b0 :: t.b1 :: t.b2 :: t.b3 :: rest := rfl
  have hn : ((bytesBe32 l).toList ++ t.toList ++ rest).length = 8 + rest.length := by simp; omega
  unfold decodeRecord
  rw [hn, hs]
  simp only [hl, e1, e2]

/-- Steps 5 to 7 of R143 on a body given by its fields. -/
theorem decodeBody_fields (t : Bytes4) (p : List Byte) (c : Word) (x : List Byte) :
    decodeBody t p.length (p ++ ((bytesBe32 c).toList ++ x)) =
      if chunkCrc t p = c then .chunk t p else .checksumMismatch (chunkCrc t p) c := by
  have hc : be32 ⟨(bytesBe32 c).b0, (bytesBe32 c).b1, (bytesBe32 c).b2, (bytesBe32 c).b3⟩ = c := be32_bytesBe32 c
  have hd : (p ++ ((bytesBe32 c).toList ++ x)).drop p.length =
      (bytesBe32 c).b0 :: (bytesBe32 c).b1 :: (bytesBe32 c).b2 :: (bytesBe32 c).b3 :: x := by
    rw [List.drop_left]; rfl
  have ht : (p ++ ((bytesBe32 c).toList ++ x)).take p.length = p := List.take_left
  rw [decodeBody, hd, ht]
  simp only [hc]
  split <;> simp_all

/-- The record of a chunk, by its fields (R142). -/
theorem encodeRecord_eq (t : Bytes4) (p : List Byte) :
    encodeRecord t p = (bytesBe32 (BitVec.ofNat 32 p.length)).toList ++ t.toList ++
      (p ++ ((bytesBe32 (chunkCrc t p)).toList ++ [])) := by
  simp [encodeRecord]

@[simp] theorem encodeRecord_length (t : Bytes4) (p : List Byte) : (encodeRecord t p).length = 12 + p.length := by
  simp [encodeRecord]; omega

/-- A chunk comes from 12 bytes and its payload at least, so its payload fits in PAY (R147). -/
theorem decodeRecord_chunk_length {s : List Byte} {t : Bytes4} {p : List Byte} (h : decodeRecord s = .chunk t p) :
    12 + p.length ≤ s.length := by
  by_cases h8 : 8 ≤ s.length
  · obtain ⟨l, g, rest, rfl⟩ := exists_header h8
    rw [decodeRecord_header] at h
    split at h; · cases h
    split at h; · cases h
    split at h; · cases h
    next h3 =>
      obtain ⟨q, c, x, hq, rfl⟩ := exists_body (rest := rest) (n := l.toNat) (by omega)
      rw [← hq, decodeBody_fields] at h
      split at h
      · cases h; simp; omega
      · cases h
  · unfold decodeRecord at h; rw [if_pos (by omega)] at h; cases h

/-! ### Fields of the record as sampled bytes -/

/-- A field written in SB is the field read there (20_memory.md R52). -/
theorem FieldAt.of_append {s : State} {pre post : List Byte} {v : Word}
    (h : s.sbBytes = pre ++ ((bytesBe32 v).toList ++ post)) : FieldAt s pre.length v.toNat := by
  refine ⟨_, _, _, _, ?_, ?_, ?_, ?_, (be32_toNat (bytesBe32 v)).symm.trans (by rw [be32_bytesBe32])⟩ <;>
    simp [State.sampleSb, h, Bytes4.toList]

/-- A field has one value. -/
theorem FieldAt.unique {s : State} {a m n : Nat} (h : FieldAt s a m) (h' : FieldAt s a n) : m = n := by
  obtain ⟨b0, b1, b2, b3, h0, h1, h2, h3, rfl⟩ := h
  obtain ⟨c0, c1, c2, c3, k0, k1, k2, k3, rfl⟩ := h'
  simp_all

/-- The tag field of a record written as its fields. -/
theorem TagFieldIs.of_header {s : State} {l : Word} {t : Bytes4} {rest : List Byte}
    (h : s.sbBytes = (bytesBe32 l).toList ++ t.toList ++ rest) : TagFieldIs s t := by
  simp [TagFieldIs, State.sampleSb, h, Bytes4.toList]

/-- A tag field has one value. -/
theorem TagFieldIs.unique {s : State} {g t : Bytes4} (h : TagFieldIs s g) (h' : TagFieldIs s t) : g = t := by
  obtain ⟨h0, h1, h2, h3⟩ := h
  obtain ⟨k0, k1, k2, k3⟩ := h'
  cases g; cases t; simp_all

end Sys2Proof.Machine
end

