-- ==== Sys2Proof/Machine/Written.lean ====
section
/-! DEFINITION. The written form of a command (30_encoding.md R90): the mnemonic, then `0xHH` for format B and
`0xHHHHHHHH` for format W (of the two operand forms R90 allows, the hexadecimal one: log 13). Nothing executes it. -/
namespace Sys2Proof.Machine

/-- One hexadecimal digit, capital. -/
def hexDigit (v : BitVec 4) : String := String.singleton ("0123456789ABCDEF".toList.getD v.toNat '0')

/-- A byte as two hexadecimal digits. -/
def hexByte (b : Byte) : String := hexDigit (b.extractLsb' 4 4) ++ hexDigit (b.extractLsb' 0 4)

/-- The operand of a command as R90 writes it, or nothing. -/
def writtenOperand : Instr → String
  | .ldtag arg => " 0x" ++ hexByte (arg.extractLsb' 24 8) ++ hexByte (arg.extractLsb' 16 8)
      ++ hexByte (arg.extractLsb' 8 8) ++ hexByte (arg.extractLsb' 0 8)
  | .crcb b | .pushp b | .pushs b => " 0x" ++ hexByte b
  | .nop | .tagtxt | .qvalid | .qcrit | .qpub | .qrsv | .qsafe | .tagstr
  | .qlen | .csum | .encode | .decode | .paystr | .crcinit | .crcfin | .clrp | .clrs => ""

/-- A command in the notation of R90. -/
def written (i : Instr) : String := i.mnemonic ++ writtenOperand i

end Sys2Proof.Machine
end

