-- ==== Sys2Proof/Tests/Slice0.lean ====
section
/-! SUPPORT. Tests. Expected values are the spec's own, from 95_test_vectors.md (the vector is named at each test) or from the
worked examples of the command rules. After them, for every obligation with hypotheses, a witness that meets them. -/
namespace Sys2Proof.Tests
open Sys2Proof.Machine

/-! ## Helpers -/

/-- The state a result holds, `s` where it is none. -/
def nextOr (s : State) (r : Result) : State :=
  match r with
  | .next t => t
  | .fault _ => s
  | .refused _ => s

/-- One command on a state. -/
def run1 (i : Instr) (s : State) : State := nextOr s (exec i s)

theorem exec_run1 (i : Instr) (s : State) : exec i s = .next (run1 i s) := by
  rw [run1, exec_eq]; rfl

/-- One command word presented to a state. -/
def runWord1 (w : Nat) (s : State) : State := nextOr s (step (s.withFetchWord 40 w))

/-- The reset state with the tag, payload and stream buffer given, ERR left at ChecksumMismatch, and PAY_CAP given. -/
def small (cap : Fin 4294967296) (t : Bytes4) (p x : List Byte) : State :=
  { (State.resetOf ⟨cap, .reject⟩) with
    tag := t, pay := p, len := BitVec.ofNat 32 p.length, sb := x, slen := BitVec.ofNat 33 x.length, status := 6#32 }

/-- `RuSt`. -/
def ruSt : Bytes4 := ⟨0x52, 0x75, 0x53, 0x74⟩

/-- `Rust`, whose reserved bit is 1. -/
def rust : Bytes4 := ⟨0x52, 0x75, 0x73, 0x74⟩

/-- The 14 bytes of the record of `RuSt`, "hi" (V-CHK-2). -/
def hiRecord : List Byte := [0, 0, 0, 2, 0x52, 0x75, 0x53, 0x74, 0x68, 0x69, 0xD2, 0xBC, 0x3F, 0x73]

/-- A `small` state meets the invariant when its bytes fit. -/
theorem small_inv (cap : Fin 4294967296) (t : Bytes4) (p x : List Byte) (hp : p.length ≤ cap.val)
    (hx : x.length ≤ cap.val + 12) : Invariant (small cap t p x) where
  len_eq := by
    have := cap.isLt
    show (BitVec.ofNat 32 p.length).toNat = p.length
    rw [BitVec.toNat_ofNat, Nat.mod_eq_of_lt (by omega)]
  pay_le := hp
  slen_eq := by
    have := cap.isLt
    show (BitVec.ofNat 33 x.length).toNat = x.length
    rw [BitVec.toNat_ofNat, Nat.mod_eq_of_lt (by omega)]
  sb_le := hx
  reserved_zero := by show (6#32).extractLsb' 4 28 = 0#28; decide
  err_legal := by show legalErr ((6#32).extractLsb' 0 4) = true; decide

/-! ## WellFormed: each check refuses an ill-formed term (R86, R88, R89) -/

theorem test_wf_reserved_opcode : (CommandFields.mk 0x44 0).wellFormed = false := by decide
theorem test_wf_format_n_argument : (CommandFields.mk 0x12 1).wellFormed = false := by decide
theorem test_wf_format_b_argument : (CommandFields.mk 0x31 0x100).wellFormed = false := by decide
theorem test_wf_legal : (CommandFields.mk 0x31 0xFF).wellFormed = true ∧ (CommandFields.mk 0x10 0xFFFFFFFF).wellFormed = true := by
  decide

/-! ## Decoding: words written out from R86 and R87, one per constructor -/

theorem test_decode_nop : decodeTableWord 40 0x0000000000 = some .nop := by decide
theorem test_decode_ldtag : decodeTableWord 40 0x1052755374 = some (.ldtag 0x52755374) := by decide
theorem test_decode_tagtxt : decodeTableWord 40 0x1100000000 = some .tagtxt := by decide
theorem test_decode_qvalid : decodeTableWord 40 0x1200000000 = some .qvalid := by decide
theorem test_decode_qcrit : decodeTableWord 40 0x1300000000 = some .qcrit := by decide
theorem test_decode_qpub : decodeTableWord 40 0x1400000000 = some .qpub := by decide
theorem test_decode_qrsv : decodeTableWord 40 0x1500000000 = some .qrsv := by decide
theorem test_decode_qsafe : decodeTableWord 40 0x1600000000 = some .qsafe := by decide
theorem test_decode_tagstr : decodeTableWord 40 0x1700000000 = some .tagstr := by decide
theorem test_decode_qlen : decodeTableWord 40 0x2000000000 = some .qlen := by decide
theorem test_decode_csum : decodeTableWord 40 0x2100000000 = some .csum := by decide
theorem test_decode_encode : decodeTableWord 40 0x2200000000 = some .encode := by decide
theorem test_decode_decode : decodeTableWord 40 0x2300000000 = some .decode := by decide
theorem test_decode_paystr : decodeTableWord 40 0x2400000000 = some .paystr := by decide
theorem test_decode_crcinit : decodeTableWord 40 0x3000000000 = some .crcinit := by decide
theorem test_decode_crcb : decodeTableWord 40 0x31000000FF = some (.crcb 0xFF) := by decide
theorem test_decode_crcfin : decodeTableWord 40 0x3200000000 = some .crcfin := by decide
theorem test_decode_clrp : decodeTableWord 40 0x4000000000 = some .clrp := by decide
theorem test_decode_pushp : decodeTableWord 40 0x4100000054 = some (.pushp 0x54) := by decide
theorem test_decode_clrs : decodeTableWord 40 0x4200000000 = some .clrs := by decide
theorem test_decode_pushs : decodeTableWord 40 0x43000000AB = some (.pushs 0xAB) := by decide

/-- V-ILL-1 to V-ILL-4: none of these words is a command. -/
theorem test_decode_illegal :
    [0x0000000001, 0x0100000000, 0x1800000000, 0x2500000000, 0x3300000000, 0x4400000000, 0xFFFFFFFFFF, 0x1200000001,
      0x3100000100].all (fun w => decodeTableWord 40 w == none) = true := by decide

/-- No two rows of the table can be selected by one word (R88): they differ in a bit both fix. -/
theorem test_rows_disjoint :
    opcodeRows.Pairwise fun r q => (r.pattern ^^^ q.pattern) &&& (r.mask &&& q.mask) ≠ 0#40 := by decide

/-! ## Steps (P6, V-ILL) -/

theorem test_step_ldtag : (runWord1 0x1052755374 State.reset).tag = ruSt := by decide
theorem test_step_illegal : (runWord1 0x4400000000 State.reset).err = 15#4 := by decide
theorem test_step_illegal_crcb : (runWord1 0x3100000100 State.reset).crc = 0xFFFFFFFF#32 := by decide
theorem test_step_reset :
    (nextOr State.reset (step { small 9 ruSt [1] [2] with input := [.reset] })).toBlock = Block.reset := by decide

/-! ## NOP and the buffers (V-BUF) -/

theorem test_nop_clears_err : (run1 .nop (small 9 ruSt [] [])).err = 0#4 := by decide
theorem test_nop_keeps_exp : (run1 .nop { small 9 ruSt [] [] with exp := 7#32 }).exp = 7#32 := by decide
theorem test_clrp : (run1 .clrp (small 9 ruSt [1, 2] [])).pay = [] ∧ (run1 .clrp (small 9 ruSt [1, 2] [])).len = 0#32 := by decide
theorem test_clrs : (run1 .clrs (small 9 ruSt [] hiRecord)).slen = 0#33 := by decide

/-- V-BUF-1. -/
theorem test_pushp_appends : (run1 (.pushp 0x69) (small 9 ruSt [0x68] [])).pay = [0x68, 0x69] := by decide

/-- V-BUF-3, PAY_CAP = 2. -/
theorem test_pushp_full :
    (run1 (.pushp 3) (small 2 ruSt [1, 2] [])).err = 14#4 ∧ (run1 (.pushp 3) (small 2 ruSt [1, 2] [])).pay = [1, 2] := by decide

/-- V-BUF-2. -/
theorem test_pushs_appends : (run1 (.pushs 0xDE) (small 9 ruSt [] hiRecord)).sb = hiRecord ++ [0xDE] := by decide

/-- V-DEC-9: PAY_CAP = 0, a 13th byte. -/
theorem test_pushs_full : (run1 (.pushs 1) (small 0 ruSt [] (List.replicate 12 0))).err = 14#4 := by decide

/-! ## TypeTag family (V-TAG) -/

theorem test_ldtag_order : (run1 (.ldtag 0x52755374) State.reset).tag = ruSt := by decide
theorem test_ldtag_unchecked : (run1 (.ldtag 0xFFFFFFFF) State.reset).err = 0#4 := by decide

/-- V-TAG-3: length before letters; a 1 reserved bit loads. -/
theorem test_tagtxt_errors :
    (run1 .tagtxt (small 9 ruSt [] [0x31, 0x32, 0x33])).err = 1#4 ∧
    (run1 .tagtxt (small 9 ruSt [] [0x40, 0x41, 0x5A, 0x5B])).err = 2#4 := by decide
theorem test_tagtxt_loads : (run1 .tagtxt (small 9 ruSt [] [0x52, 0x75, 0x73, 0x74])).tag = rust := by decide

/-- V-TAG-1. -/
theorem test_qvalid : (run1 .qvalid (small 9 ruSt [] [])).res = 1#32 ∧ (run1 .qvalid (small 9 rust [] [])).res = 0#32 := by decide
theorem test_qvalid_letters : (run1 .qvalid (small 9 ⟨0x40, 0x41, 0x5A, 0x5B⟩ [] [])).res = 0#32 := by decide
theorem test_qcrit : (run1 .qcrit (small 9 ⟨0x74, 0x45, 0x58, 0x74⟩ [] [])).res = 0#32 ∧ (run1 .qcrit (small 9 ruSt [] [])).res = 1#32 := by decide
theorem test_qpub : (run1 .qpub (small 9 ruSt [] [])).res = 0#32 ∧ (run1 .qpub (small 9 ⟨0x49, 0x48, 0x44, 0x52⟩ [] [])).res = 1#32 := by decide
theorem test_qrsv : (run1 .qrsv (small 9 ⟨0x52, 0x75, 0x11, 0x74⟩ [] [])).res = 1#32 ∧ (run1 .qrsv (small 9 rust [] [])).res = 0#32 := by decide
theorem test_qsafe : (run1 .qsafe (small 9 ruSt [] [])).res = 1#32 ∧ (run1 .qsafe (small 9 ⟨0x49, 0x45, 0x4E, 0x44⟩ [] [])).res = 0#32 := by decide

/-- V-TAG-4, both columns. -/
theorem test_tagstr_reject : (run1 .tagstr (small 9 ⟨0xC3, 0xA9, 0xC3, 0xA9⟩ [] [])).err = 8#4 ∧ (run1 .tagstr (small 9 ⟨0, 0, 0, 0⟩ [] [])).err = 0#4 := by decide
/-- From reset TAGSTR_MULTIBYTE is free (log 2), and TAGSTR decides 00 00 00 00 without it. -/
theorem test_tagstr_at_reset : (run1 .tagstr State.reset).err = 0#4 := by decide
theorem test_tagstr_accept :
    (run1 .tagstr { small 9 ⟨0xC3, 0xA9, 0xC3, 0xA9⟩ [] [] with params := ⟨9, .accept⟩ }).err = 0#4 ∧
    (run1 .tagstr { small 9 ⟨0x41, 0x41, 0x41, 0xC3⟩ [] [] with params := ⟨9, .accept⟩ }).err = 8#4 := by decide

/-! ## CRC-32 family (V-CRC) -/

theorem test_crcinit : (run1 .crcinit { State.reset with crc := 5#32 }).crc = 0xFFFFFFFF#32 := by decide

/-- V-CRC-1, V-CRC-2. -/
theorem test_crcb : (run1 (.crcb 0x61) State.reset).crc = 0x174841BC#32 ∧ (run1 (.crcb 0xFF) State.reset).crc = 0x00FFFFFF#32 := by decide
theorem test_crcfin : (run1 .crcfin { State.reset with crc := 0x174841BC#32 }).res = 0xE8B7BE43#32 := by decide

/-- V-CRC-6: the check value. -/
theorem test_crc32_check : crc32 [0x31, 0x32, 0x33, 0x34, 0x35, 0x36, 0x37, 0x38, 0x39] = 0xCBF43926#32 := by decide +kernel

/-- S4: PNGME's own literal, 2882656334, over `RuSt` and the 42 bytes of Scenario D. -/
theorem test_crc32_scenario_d :
    (crc32 (ruSt.toList ++ [0x54, 0x68, 0x69, 0x73, 0x20, 0x69, 0x73, 0x20, 0x77, 0x68, 0x65, 0x72, 0x65, 0x20,
      0x79, 0x6F, 0x75, 0x72, 0x20, 0x73, 0x65, 0x63, 0x72, 0x65, 0x74, 0x20, 0x6D, 0x65, 0x73, 0x73, 0x61, 0x67, 0x65,
      0x20, 0x77, 0x69, 0x6C, 0x6C, 0x20, 0x62, 0x65, 0x21])).toNat = 2882656334 := by decide

/-- R184: T[0], T[1], T[128], T[255]. -/
theorem test_crc_table :
    (crcTable[0]?, crcTable[1]?, crcTable[128]?, crcTable[255]?) =
      (some 0#32, some 0x77073096#32, some 0xEDB88320#32, some 0x2D02EF8D#32) := by decide

/-! ## Chunk family (V-CHK, V-DEC, V-UTF) -/

theorem test_qlen : (run1 .qlen (small 9 ruSt [0x68, 0x69] [])).res = 2#32 := by decide

/-- V-CHK-2, V-CHK-4. -/
theorem test_csum : (run1 .csum (small 9 ruSt [0x68, 0x69] [])).res = 0xD2BC3F73#32 := by decide
theorem test_csum_reset : (run1 .csum State.reset).res = 0x2144DF1C#32 := by decide
theorem test_encode : (run1 .encode (small 9 ruSt [0x68, 0x69] [1])).sb = hiRecord := by decide
theorem test_encode_reset : (run1 .encode State.reset).sb = [0, 0, 0, 0, 0, 0, 0, 0, 0x21, 0x44, 0xDF, 0x1C] := by decide +kernel

/-- V-DEC-7: trailing bytes are ignored. -/
theorem test_decode_success :
    (run1 .decode (small 9 ⟨0x49, 0x45, 0x4E, 0x44⟩ [] (hiRecord ++ [0xDE, 0xAD]))).pay = [0x68, 0x69] ∧
    (run1 .decode (small 9 ⟨0x49, 0x45, 0x4E, 0x44⟩ [] (hiRecord ++ [0xDE, 0xAD]))).tag = ruSt := by decide

/-- V-DEC-1, V-DEC-3, V-DEC-4, V-DEC-5 (the sum 12 + L does not wrap). -/
theorem test_decode_errors :
    (run1 .decode (small 9 ruSt [] [0, 0, 0, 0, 0x52, 0x75, 0x31, 0x74, 0, 0, 0])).err = 3#4 ∧
    (run1 .decode (small 9 ruSt [] [0, 0, 0, 9, 0x52, 0x75, 0x31, 0x74, 0, 0, 0, 0])).err = 4#4 ∧
    (run1 .decode (small 9 ruSt [] (hiRecord.take 13))).err = 5#4 ∧
    (run1 .decode (small 9 ruSt [] [0xFF, 0xFF, 0xFF, 0xF5, 0x52, 0x75, 0x53, 0x74, 0, 0, 0, 0])).err = 5#4 := by decide

/-- V-DEC-6: the length field lowered to 1. -/
theorem test_decode_mismatch :
    let t := run1 .decode (small 9 ruSt [7] (0 :: 0 :: 0 :: 1 :: hiRecord.drop 4))
    t.err = 6#4 ∧ t.exp = 0xBED0FE69#32 ∧ t.act = 0x69D2BC3F#32 ∧ t.pay = [7] := by decide

/-- V-UTF-1. -/
theorem test_utf8_valid :
    [[], [0x68, 0x69], [0x7F], [0xC3, 0xA9], [0xE2, 0x82, 0xAC], [0xE0, 0xA0, 0x80], [0xED, 0x9F, 0xBF], [0xEF, 0xBF, 0xBF],
      [0xF0, 0x90, 0x80, 0x80], [0xF4, 0x8F, 0xBF, 0xBF]].all utf8Valid = true := by decide
theorem test_utf8_invalid :
    [[0x80], [0xFF], [0xC2, 0x7F], [0x68, 0xC3], [0xC0, 0x80], [0xC1, 0xBF], [0xE2, 0x82], [0xE0, 0x80, 0x80], [0xED, 0xA0, 0x80],
      [0xF0, 0x8F, 0xBF, 0xBF], [0xF4, 0x90, 0x80, 0x80], [0xF5, 0x80, 0x80, 0x80]].any utf8Valid = false := by decide
theorem test_paystr : (run1 .paystr (small 9 ruSt [0x68, 0xC3] [])).err = 7#4 ∧ (run1 .paystr (small 9 ruSt [] [])).err = 0#4 := by decide

/-! ## Written form (R90) -/

theorem test_written : written (.ldtag 0x52755374) = "LDTAG 0x52755374" ∧ written (.pushs 0xDE) = "PUSHS 0xDE" ∧ written .nop = "NOP" := by
  decide

/-! ## Witnesses: for every obligation with hypotheses, a case that meets them -/

theorem ruSt_valid : ValidTag ruSt := (tagValid_iff ruSt).1 (by decide)
theorem rust_not_valid : ¬ ValidTag rust := fun h => absurd ((tagValid_iff rust).2 h) (by decide)

/-- A sequence that begins with a byte no row of R12's table leads with is not text. -/
theorem not_text_of_lead (b : Byte) (s : List Byte)
    (h : ∀ row ∈ utf8Rows, ¬ (row.lead.lo.toNat ≤ b.toNat ∧ b.toNat ≤ row.lead.hi.toNat)) : ¬ Utf8Text (b :: s) := by
  rintro ⟨gs, hg, e⟩
  cases gs with
  | nil => simp at e
  | cons g gs =>
    obtain ⟨row, hr, hf⟩ := hg g (by simp)
    cases hf with
    | cons hb _ =>
      simp only [List.flatten_cons, List.cons_append, List.cons.injEq] at e
      rw [e.1] at hb
      exact h row hr hb

theorem ff_not_text (s : List Byte) : ¬ Utf8Text (0xFF#8 :: s) := not_text_of_lead _ _ (by decide)

theorem c3a9_text : Utf8Text [0xC3#8, 0xA9#8, 0xC3#8, 0xA9#8] := by
  refine ⟨[[0xC3#8, 0xA9#8], [0xC3#8, 0xA9#8]], ?_, rfl⟩
  have hg : Utf8Group [0xC3#8, 0xA9#8] :=
    ⟨⟨⟨0xC2, 0xDF⟩, [⟨0x80, 0xBF⟩]⟩, by decide, .cons (by decide) (.cons (by decide) .nil)⟩
  simp [hg]

theorem witness_EncodeOfDecodeIsIdentity : decode 0x31000000FF#40 = .ok (.crcb 0xFF#8) := by rfl

theorem witness_DecoderAgreesWithOpcodeTable : OpcodeRow.mk "CRCB" 0x3100000000#40 0xFFFFFFFF00#40 ∈ opcodeRows := by decide

theorem witness_StepExecutesPresentedCommand :
    ({ State.reset with input := [.command 0x1100000000#40, .reset] } : State).input = .command 0x1100000000#40 :: [.reset] ∧
    decode 0x1100000000#40 = .ok .tagtxt := ⟨rfl, rfl⟩

/-- One illegal word of each kind: reserved opcode, format N, format B. -/
theorem witness_IllegalWordRaisesOnlyIllegalCommand :
    ({ State.reset with input := [.command 0x4400000000#40] } : State).input = .command 0x4400000000#40 :: [] ∧
    (CommandFields.mk (opField 0x4400000000#40) (argField 0x4400000000#40)).wellFormed = false ∧
    (CommandFields.mk (opField 0x0000000001#40) (argField 0x0000000001#40)).wellFormed = false ∧
    (CommandFields.mk (opField 0x3100000100#40) (argField 0x3100000100#40)).wellFormed = false := by decide

theorem witness_NothingHappensWithoutHostAction : State.reset.input = [] := rfl

theorem witness_HostResetRestoresResetState :
    ({ small 9 ruSt [1] [2] with input := [.reset, .reset] } : State).input = .reset :: [.reset] := rfl

/-- A step that fills PAY to its capacity, from a state with the invariant. -/
theorem witness_EveryStepKeepsInvariant :
    Invariant ((small 2 ruSt [1] [2]).present 0x4100000003#40) ∧
    ∃ t, step ((small 2 ruSt [1] [2]).present 0x4100000003#40) = .next t ∧ t.pay = [1, 3] :=
  ⟨(small_inv 2 ruSt [1] [2] (by decide) (by decide)).of_agree rfl rfl rfl rfl rfl rfl, _, rfl, by decide⟩

theorem witness_OnlyListedCommandsWriteEachComponent :
    exec .csum State.reset = .next (run1 .csum State.reset) ∧ Instr.csum.mnemonic ∉ writers .crc := ⟨exec_run1 _ _, by decide⟩

theorem witness_FailingCommandHasNoPartialEffect :
    exec .tagtxt State.reset = .next (run1 .tagtxt State.reset) ∧ (run1 .tagtxt State.reset).err.toNat = 1 := ⟨exec_run1 _ _, by decide⟩

theorem witness_FailingCommandHasNoPartialEffect_mismatch :
    let s := small 9 ruSt [7] [0, 0, 0, 0, 0x52, 0x75, 0x53, 0x74, 0, 0, 0, 0]
    exec .decode s = .next (run1 .decode s) ∧ (run1 .decode s).err.toNat = 6 := ⟨exec_run1 _ _, by decide +kernel⟩

theorem witness_EveryCommandWritesItsOwnErrorCodes : exec .decode State.reset = .next (run1 .decode State.reset) := exec_run1 _ _

theorem witness_RepeatedFailureGivesSameError :
    exec .decode State.reset = .next (run1 .decode State.reset) ∧ (run1 .decode State.reset).err.toNat ≠ 0 := ⟨exec_run1 _ _, by decide⟩

theorem witness_NoCommandReadsResultRegisters :
    let s' : State := { State.reset with res := 1#32, status := 6#32, exp := 2#32, act := 3#32 }
    exec .encode State.reset = .next (run1 .encode State.reset) ∧ exec .encode s' = .next (run1 .encode s') ∧
      s'.params = State.reset.params ∧ s'.tag = State.reset.tag ∧ s'.len = State.reset.len ∧ s'.pay = State.reset.pay ∧
      s'.slen = State.reset.slen ∧ s'.sb = State.reset.sb ∧ s'.crc = State.reset.crc :=
  ⟨exec_run1 _ _, exec_run1 _ _, rfl, rfl, rfl, rfl, rfl, rfl, rfl⟩

/-- The same with a command that writes RES, and with a DECODE that writes EXP and ACT. -/
theorem witness_NoCommandReadsResultRegisters_written :
    let s := small 9 ruSt [] [0, 0, 0, 0, 0x52, 0x75, 0x53, 0x74, 0, 0, 0, 0]
    let s' : State := { s with res := 1#32, status := 0#32, exp := 2#32, act := 3#32 }
    exec .csum s = .next (run1 .csum s) ∧ exec .csum s' = .next (run1 .csum s') ∧
      exec .decode s = .next (run1 .decode s) ∧ exec .decode s' = .next (run1 .decode s') ∧
      (run1 .decode s).err.toNat = 6 ∧
      s'.params = s.params ∧ s'.tag = s.tag ∧ s'.len = s.len ∧ s'.pay = s.pay ∧ s'.slen = s.slen ∧ s'.sb = s.sb ∧
      s'.crc = s.crc :=
  ⟨exec_run1 _ _, exec_run1 _ _, exec_run1 _ _, exec_run1 _ _, by decide +kernel, rfl, rfl, rfl, rfl, rfl, rfl, rfl⟩

theorem witness_OtherFamiliesIgnoreCrcRegister :
    Instr.csum.mnemonic ∉ ["CRCINIT", "CRCB", "CRCFIN"] ∧ exec .csum State.reset = .next (run1 .csum State.reset) := ⟨by decide, exec_run1 _ _⟩

theorem witness_InstancesAreIndependent :
    let m : Instances := [(small 9 ruSt [] []).present 0x4100000068#40, small 9 rust [1] []]
    (0 : Nat) ≠ 1 ∧ m[0]? = some ((small 9 ruSt [] []).present 0x4100000068#40) ∧ m[1]? = some (small 9 rust [1] []) :=
  ⟨by decide, rfl, rfl⟩

theorem witness_OnlyValidBytesAreSampled :
    Invariant (small 2 ruSt [1, 2] [3]) ∧ (small 2 ruSt [1, 2] [3]).samplePay 1 = some 2#8 ∧
      (small 2 ruSt [1, 2] [3]).samplePay 2 = none :=
  ⟨small_inv _ _ _ _ (by decide) (by decide), by decide, by decide⟩

/-- Each clause: one byte short and one too many, the letter borders, and four letters. -/
theorem witness_TagtxtChecksLengthThenLetters :
    Invariant (small 9 ruSt [] [0x52, 0x75, 0x53]) ∧ (small 9 ruSt [] [0x52, 0x75, 0x53]).slen.toNat ≠ 4 ∧
    Invariant (small 9 ruSt [] [0x5A, 0x7A, 0x41, 0x5B]) ∧ (small 9 ruSt [] [0x5A, 0x7A, 0x41, 0x5B]).slen.toNat = 4 ∧
    (∃ b ∈ (small 9 ruSt [] [0x5A, 0x7A, 0x41, 0x5B]).sb, ¬ AsciiLetter b) ∧
    Invariant (small 9 ruSt [] [0x5A, 0x7A, 0x41, 0x61]) ∧ (small 9 ruSt [] [0x5A, 0x7A, 0x41, 0x61]).slen.toNat = 4 ∧
    (∀ b ∈ (small 9 ruSt [] [0x5A, 0x7A, 0x41, 0x61]).sb, AsciiLetter b) := by
  refine ⟨small_inv _ _ _ _ (by decide) (by decide), by decide, small_inv _ _ _ _ (by decide) (by decide), by decide,
    ⟨0x5B, by decide, by simp [AsciiLetter]⟩, small_inv _ _ _ _ (by decide) (by decide), by decide, ?_⟩
  simp [small, AsciiLetter]

theorem witness_TagQueriesAnswerFromTagBits : ValidTag (small 9 ruSt [] []).tag ∧ ¬ ValidTag (small 9 rust [] []).tag :=
  ⟨ruSt_valid, rust_not_valid⟩

/-- Each clause: ASCII at 0x7F, not text, and text with a byte of 0x80 or more under either parameter value. -/
theorem witness_TagstrVerdict :
    (∀ b ∈ (small 9 ⟨0x7F, 0, 0x7F, 0⟩ [] []).tag.toList, b.toNat < 0x80) ∧
    ¬ Utf8Text (small 9 ⟨0xFF, 0x41, 0x41, 0x41⟩ [] []).tag.toList ∧
    Utf8Text (small 9 ⟨0xC3, 0xA9, 0xC3, 0xA9⟩ [] []).tag.toList ∧
    (∃ b ∈ (small 9 ⟨0xC3, 0xA9, 0xC3, 0xA9⟩ [] []).tag.toList, 0x80 ≤ b.toNat) ∧
    (small 9 ruSt [] []).params.tagstrMultibyte = .reject ∧
    ({ small 9 ruSt [] [] with params := ⟨9, .accept⟩ } : State).params.tagstrMultibyte = .accept :=
  ⟨by decide, ff_not_text _, c3a9_text, ⟨0xC3, by decide, by decide⟩, rfl, rfl⟩

theorem witness_TagFromTextIsValidWhenReservedBitIs :
    let s := small 9 rust [] [0x52, 0x75, 0x73, 0x74]
    exec .tagtxt s = .next (run1 .tagtxt s) ∧ (run1 .tagtxt s).err.toNat = 0 := ⟨exec_run1 _ _, by decide⟩

theorem witness_ValidTagRenders : ValidTag (small 9 ruSt [] []).tag := ruSt_valid

theorem witness_CrcTableFormEqualsBitwiseForm : 255 < 256 ∧ crcTable[255]? = some (crcLoop 8 (BitVec.ofNat 32 255)) := by decide

theorem witness_OneChangedByteChangesChecksum : (0x52#8 : Byte) ≠ 0x53#8 := by decide

open Polynomial in
/-- The three polynomials of R185 for the one-byte sequence 01. -/
theorem witness_ChecksumIsPolynomialRemainder :
    ∃ M I G : (ZMod 2)[X],
      (M = ∑ k ∈ Finset.range [0x01#8].length, ∑ j ∈ Finset.range 8,
        (if ([0x01#8].getD k 0#8).getLsbD j then X ^ (8 * [0x01#8].length - 1 - (8 * k + j)) else 0)) ∧
      (I = ∑ i ∈ Finset.range 32, X ^ i) ∧
      G = X ^ 32 + X ^ 26 + X ^ 23 + X ^ 22 + X ^ 16 + X ^ 12 + X ^ 11 + X ^ 10 + X ^ 8 + X ^ 7 + X ^ 5 + X ^ 4 +
        X ^ 2 + X + 1 := ⟨_, _, _, rfl, rfl, rfl⟩

theorem witness_CrcRegisterAccumulatesFedBytes :
    Instr.crcinit ∉ [Instr.crcb 0x61, Instr.csum, Instr.crcb 0x62, Instr.encode] ∧
    fedBytes [Instr.crcb 0x61, Instr.csum, Instr.crcb 0x62, Instr.encode] = [0x61, 0x62] := by decide

theorem witness_EncodeWritesRecordFields :
    Invariant (small 2 ruSt [0x68, 0x69] []) ∧ 1 < (small 2 ruSt [0x68, 0x69] []).len.toNat ∧
      12 + (small 2 ruSt [0x68, 0x69] []).len.toNat ≤ 14 :=
  ⟨small_inv _ _ _ _ (by decide) (by decide), by decide, by decide⟩

/-- DECODE's first clause, at 11 bytes. -/
theorem witness_DecodeFollowsItsChecks_short :
    Invariant (small 9 ruSt [] (List.replicate 11 0)) ∧ (small 9 ruSt [] (List.replicate 11 0)).slen.toNat < 12 :=
  ⟨small_inv _ _ _ _ (by decide) (by decide), by decide⟩

/-- DECODE's tag clause, at 12 bytes. -/
theorem witness_DecodeFollowsItsChecks_tag :
    let s := small 9 ruSt [] [0, 0, 0, 9, 0x52, 0x75, 0x73, 0x74, 0, 0, 0, 0]
    Invariant s ∧ 12 ≤ s.slen.toNat ∧ FieldAt s 0 9 ∧ TagFieldIs s rust ∧ ¬ ValidTag rust :=
  ⟨small_inv _ _ _ _ (by decide) (by decide), by decide, ⟨0, 0, 0, 9, by decide⟩, ⟨rfl, rfl, rfl, rfl⟩, rust_not_valid⟩

/-- DECODE's length clause, one byte short of 12 + L. -/
theorem witness_DecodeFollowsItsChecks_truncated :
    let s := small 9 ruSt [] (hiRecord.take 13)
    Invariant s ∧ 12 ≤ s.slen.toNat ∧ FieldAt s 0 2 ∧ TagFieldIs s ruSt ∧ ValidTag ruSt ∧ s.slen.toNat < 12 + 2 :=
  ⟨small_inv _ _ _ _ (by decide) (by decide), by decide, ⟨0, 0, 0, 2, by decide⟩, ⟨rfl, rfl, rfl, rfl⟩, ruSt_valid, by decide⟩

/-- DECODE's checksum clause, at exactly 12 + L bytes. -/
theorem witness_DecodeFollowsItsChecks_mismatch :
    let s := small 9 ruSt [] [0, 0, 0, 0, 0x52, 0x75, 0x53, 0x74, 0, 0, 0, 1]
    Invariant s ∧ 12 ≤ s.slen.toNat ∧ FieldAt s 0 0 ∧ TagFieldIs s ruSt ∧ ValidTag ruSt ∧ 12 + 0 ≤ s.slen.toNat ∧
      FieldAt s (8 + 0) 1 ∧ (crc32 (ruSt.toList ++ recordPayload s 0)).toNat ≠ 1 :=
  ⟨small_inv _ _ _ _ (by decide) (by decide), by decide, ⟨0, 0, 0, 0, by decide⟩, ⟨rfl, rfl, rfl, rfl⟩, ruSt_valid, by decide,
    ⟨0, 0, 0, 1, by decide⟩, by decide⟩

/-- DECODE's success clause, with trailing bytes. -/
theorem witness_DecodeFollowsItsChecks_success :
    let s := small 9 ruSt [] (hiRecord ++ [0xDE])
    Invariant s ∧ 12 ≤ s.slen.toNat ∧ FieldAt s 0 2 ∧ TagFieldIs s ruSt ∧ ValidTag ruSt ∧ 12 + 2 ≤ s.slen.toNat ∧
      FieldAt s (8 + 2) (crc32 (ruSt.toList ++ recordPayload s 2)).toNat :=
  ⟨small_inv _ _ _ _ (by decide) (by decide), by decide, ⟨0, 0, 0, 2, by decide⟩, ⟨rfl, rfl, rfl, rfl⟩, ruSt_valid, by decide,
    ⟨0xD2, 0xBC, 0x3F, 0x73, by decide⟩⟩

theorem witness_PaystrVerdict :
    Utf8Text ((small 9 ruSt [0xC3, 0xA9, 0xC3, 0xA9] []).pay.take (small 9 ruSt [0xC3, 0xA9, 0xC3, 0xA9] []).len.toNat) ∧
    ¬ Utf8Text ((small 9 ruSt [0xFF] []).pay.take (small 9 ruSt [0xFF] []).len.toNat) :=
  ⟨c3a9_text, ff_not_text []⟩

theorem witness_RecordRoundTrip : [0x68#8, 0x69#8].length < 2 ^ 32 ∧ ValidTag ruSt ∧ ¬ ValidTag rust :=
  ⟨by decide, ruSt_valid, rust_not_valid⟩

theorem witness_DecodedBytesAreTheRecord : decodeRecord (hiRecord ++ [1]) = .chunk ruSt [0x68, 0x69] := by decide +kernel

theorem witness_EncodeThenDecodeKeepsChunk : Invariant (small 2 ruSt [0x68, 0x69] []) ∧ ValidTag (small 2 ruSt [0x68, 0x69] []).tag :=
  ⟨small_inv _ _ _ _ (by decide) (by decide), ruSt_valid⟩

theorem witness_TrailingBytesAreIgnored :
    decodeRecord hiRecord = .chunk ruSt [0x68, 0x69] ∧
    decodeRecord [0, 0, 0, 9, 0x52, 0x75, 0x73, 0x74, 0, 0, 0, 0] = .invalidTag ∧
    decodeRecord [0, 0, 0, 0, 0x52, 0x75, 0x53, 0x74, 0, 0, 0, 0] = .checksumMismatch 0xD484093C#32 0#32 := by decide

theorem witness_AlteredChecksumIsReported :
    [0x68#8, 0x69#8].length < 2 ^ 32 ∧ ValidTag ruSt ∧ 0xD2BC3F72#32 ≠ chunkCrc ruSt [0x68, 0x69] :=
  ⟨by decide, ruSt_valid, by decide⟩

theorem witness_DecodedChunkIsSelfConsistent :
    let s := small 2 rust [] hiRecord
    Invariant s ∧ exec .decode s = .next (run1 .decode s) ∧ (run1 .decode s).err.toNat = 0 :=
  ⟨small_inv _ _ _ _ (by decide) (by decide), exec_run1 _ _, by decide +kernel⟩

/-- Both clauses, one below the capacity and at it. -/
theorem witness_PushpAppendsOrRaisesCapacity :
    Invariant (small 2 ruSt [1] []) ∧ (small 2 ruSt [1] []).len.toNat < (small 2 ruSt [1] []).params.payCap.val ∧
    Invariant (small 2 ruSt [1, 2] []) ∧ (small 2 ruSt [1, 2] []).params.payCap.val ≤ (small 2 ruSt [1, 2] []).len.toNat :=
  ⟨small_inv _ _ _ _ (by decide) (by decide), by decide, small_inv _ _ _ _ (by decide) (by decide), by decide⟩

theorem witness_PushsAppendsOrRaisesCapacity :
    let s := small 0 ruSt [] (List.replicate 11 0)
    let u := small 0 ruSt [] (List.replicate 12 0)
    Invariant s ∧ s.slen.toNat < s.params.payCap.val + 12 ∧ Invariant u ∧ u.params.payCap.val + 12 ≤ u.slen.toNat :=
  ⟨small_inv _ _ _ _ (by decide) (by decide), by decide, small_inv _ _ _ _ (by decide) (by decide), by decide⟩

/-- Each result a presented prefix can decode to, PAY_CAP = 1 cutting the "hi" record short (R215). -/
theorem witness_DecodeofDecodesPresentedBytes :
    decodeRecord (hiRecord.take (2 + 12)) = .chunk ruSt [0x68, 0x69] ∧
    decodeRecord (hiRecord.take (1 + 12)) = .truncatedPayload ∧
    decodeRecord ((List.replicate 11 (0 : Byte)).take (1 + 12)) = .tooShort ∧
    decodeRecord ((List.replicate 12 (0 : Byte)).take (1 + 12)) = .invalidTag ∧
    decodeRecord (([0, 0, 0, 0, 0x52, 0x75, 0x53, 0x74, 0, 0, 0, 0] : List Byte).take (0 + 12)) =
      .checksumMismatch 0xD484093C#32 0#32 := by decide

end Sys2Proof.Tests
end

/-! ## The scanner and the table of R12 -/

section
namespace Sys2Proof.Machine

/-! ### One byte against the table -/

theorem ByteRange.contains_iff (r : ByteRange) (b : Byte) :
    r.contains b = true ↔ r.lo.toNat ≤ b.toNat ∧ b.toNat ≤ r.hi.toNat := by
  simp [ByteRange.contains, BitVec.le_def]

/-- Why the scanner may commit to the first row it finds: two different rows of R12's table lead with ranges that lie
apart. -/
theorem utf8Rows_leads_apart : ∀ row ∈ utf8Rows, ∀ row' ∈ utf8Rows,
    row = row' ∨ row.lead.hi.toNat < row'.lead.lo.toNat ∨ row'.lead.hi.toNat < row.lead.lo.toNat := by
  decide

theorem mem_and_contains_of_find?_utf8Rows {b : Byte} {row : Utf8Row}
    (h : (utf8Rows.find? fun row => row.lead.contains b) = some row) : row ∈ utf8Rows ∧ row.lead.contains b = true := by
  have hb := List.find?_some h
  exact ⟨List.mem_of_find?_eq_some h, hb⟩

theorem find?_utf8Rows_of_contains {b : Byte} {row : Utf8Row} (hrow : row ∈ utf8Rows)
    (hb : row.lead.contains b = true) : (utf8Rows.find? fun row => row.lead.contains b) = some row := by
  have hsome : (utf8Rows.find? fun row => row.lead.contains b).isSome := List.find?_isSome.2 ⟨row, hrow, hb⟩
  obtain ⟨found, hfind⟩ := Option.isSome_iff_exists.1 hsome
  obtain ⟨hfound, hb'⟩ := mem_and_contains_of_find?_utf8Rows hfind
  rw [ByteRange.contains_iff] at hb hb'
  obtain rfl | hapart | hapart := utf8Rows_leads_apart row hrow found hfound
  · exact hfind
  · omega
  · omega

/-! ### Text that begins inside a group -/

/-- The sequence first pays the ranges still owed by a group in progress, one byte for each, and then goes on with whole
groups. -/
def PaysThenText (owed : List ByteRange) (s : List Byte) : Prop :=
  ∃ paid rest, List.Forall₂ (fun r b => r.lo.toNat ≤ b.toNat ∧ b.toNat ≤ r.hi.toNat) owed paid ∧ Utf8Text rest ∧
    paid ++ rest = s

@[simp] theorem paysThenText_nil (s : List Byte) : PaysThenText [] s ↔ Utf8Text s := by
  simp [PaysThenText]

@[simp] theorem not_paysThenText_cons_nil (r : ByteRange) (owed : List ByteRange) : ¬ PaysThenText (r :: owed) [] := by
  rintro ⟨paid, rest, hpaid, -, e⟩
  cases hpaid with
  | cons hb hpaid => simp at e

@[simp] theorem paysThenText_cons_cons (r : ByteRange) (owed : List ByteRange) (b : Byte) (s : List Byte) :
    PaysThenText (r :: owed) (b :: s) ↔ r.contains b = true ∧ PaysThenText owed s := by
  rw [ByteRange.contains_iff]
  constructor
  · rintro ⟨paid, rest, hpaid, hrest, e⟩
    cases hpaid with
    | cons hb hpaid =>
      obtain ⟨rfl, rfl⟩ := List.cons.inj e
      exact ⟨hb, _, _, hpaid, hrest, rfl⟩
  · rintro ⟨hb, paid, rest, hpaid, hrest, rfl⟩
    exact ⟨b :: paid, rest, .cons hb hpaid, hrest, rfl⟩

@[simp] theorem utf8Text_nil : Utf8Text [] := ⟨[], by simp⟩

theorem utf8Text_group_append {g s : List Byte} (hg : Utf8Group g) (hs : Utf8Text s) : Utf8Text (g ++ s) := by
  obtain ⟨gs, hgs, rfl⟩ := hs
  exact ⟨g :: gs, List.forall_mem_cons.2 ⟨hg, hgs⟩, rfl⟩

/-- The first group of a text that is not empty is in progress from its first range on. -/
theorem utf8Text_cons_iff (b : Byte) (s : List Byte) :
    Utf8Text (b :: s) ↔ ∃ row ∈ utf8Rows, PaysThenText (row.lead :: row.tail) (b :: s) := by
  constructor
  · rintro ⟨gs, hgs, e⟩
    cases gs with
    | nil => simp at e
    | cons g gs =>
      obtain ⟨⟨row, hrow, hg⟩, hgs⟩ := List.forall_mem_cons.1 hgs
      exact ⟨row, hrow, g, gs.flatten, hg, ⟨gs, hgs, rfl⟩, e⟩
  · rintro ⟨row, hrow, g, rest, hg, hrest, e⟩
    exact e ▸ utf8Text_group_append ⟨row, hrow, hg⟩ hrest

/-! ### The scanner -/

theorem utf8Scan_iff (owed : List ByteRange) (s : List Byte) : utf8Scan owed s = true ↔ PaysThenText owed s := by
  fun_induction utf8Scan owed s with
  | case1 => simp
  | case2 => simp
  | case3 r owed b s ih => simp [ih]
  | case4 b s row hfind ih =>
    obtain ⟨hrow, hb⟩ := mem_and_contains_of_find?_utf8Rows hfind
    simp only [ih, paysThenText_nil, utf8Text_cons_iff, paysThenText_cons_cons]
    constructor
    · exact fun h => ⟨row, hrow, hb, h⟩
    · rintro ⟨row', hrow', hb', h⟩
      obtain rfl : row = row' := Option.some.inj (hfind.symm.trans (find?_utf8Rows_of_contains hrow' hb'))
      exact h
  | case5 b s hfind =>
    have hlead := List.find?_eq_none.1 hfind
    simp only [Bool.false_eq_true, paysThenText_nil, utf8Text_cons_iff, paysThenText_cons_cons, false_iff]
    rintro ⟨row, hrow, hb, -⟩
    exact hlead row hrow hb

/-- Settles O42: the scanner with nothing owed accepts exactly the texts (`utf8Scan_iff`). -/
theorem utf8ScannerMatchesTable : Obligations.Utf8ScannerMatchesTable := by
  intro s
  rw [utf8Valid, utf8Scan_iff, paysThenText_nil]

end Sys2Proof.Machine
end

/-! ## The state after reset -/

section
namespace Sys2Proof.Machine

/-- The parameters are not state of the block (R36): its reset state does not depend on them. -/
@[simp] theorem State.resetOf_toBlock (p : Params) : (State.resetOf p).toBlock = Block.reset := rfl

@[simp] theorem State.resetOf_params (p : Params) : (State.resetOf p).params = p := rfl

/-- Settles O11: the components are those of `Block.reset`, whatever the parameters (`State.resetOf_toBlock`), and
`State.reset` takes `resetParams`. -/
theorem resetValues : Obligations.ResetValues := by
  refine ⟨⟨resetParams, rfl⟩, fun p => ?_⟩
  simp [Block.reset, Bytes4.toList]

end Sys2Proof.Machine
end

/-! ## The decoder and the opcode table (30_encoding.md R86, R87) -/

section
namespace Sys2Proof

/-! ### The decoder inverts the encoder -/

@[simp] theorem decodeFields_opcode_argument (i : Instr) : decodeFields i.opcode i.argument = .ok i := by
  cases i with
  | crcb b => exact decodeB_eq_ok.2 ⟨b, rfl, rfl⟩
  | pushp b => exact decodeB_eq_ok.2 ⟨b, rfl, rfl⟩
  | pushs b => exact decodeB_eq_ok.2 ⟨b, rfl, rfl⟩
  | _ => rfl

theorem decode_eq_ok_iff {w : CommandWord} {i : Instr} :
    decode w = .ok i ↔ opField w = i.opcode ∧ argField w = i.argument := by
  constructor
  · exact decodeFields_ok
  · rintro ⟨hop, harg⟩
    rw [decode, hop, harg, decodeFields_opcode_argument]

/-! ### The row of a command -/

/-- The bits of `arg` that R86 demands to be zero: all of them in format N, `arg[31:8]` in format B, none in format W. -/
def Instr.argMask : Instr → BitVec 32
  | .ldtag _ => 0#32
  | .crcb _ | .pushp _ | .pushs _ => BitVec.allOnes 24 ++ 0#8
  | .nop | .tagtxt | .qvalid | .qcrit | .qpub | .qrsv | .qsafe | .tagstr
  | .qlen | .csum | .encode | .decode | .paystr | .crcinit | .crcfin | .clrp | .clrs => BitVec.allOnes 32

/-- The row of R87's table that a command's opcode and format make; `opcodeRows_eq` says that these are the table. -/
def Instr.row (i : Instr) : OpcodeRow :=
  ⟨i.mnemonic, i.opcode ++ 0#32, BitVec.allOnes 8 ++ i.argMask⟩

/-- One command for each mnemonic, in the order of R87's table. -/
def commandKinds : List Instr :=
  [.nop, .ldtag 0, .tagtxt, .qvalid, .qcrit, .qpub, .qrsv, .qsafe, .tagstr, .qlen, .csum, .encode, .decode, .paystr,
    .crcinit, .crcb 0, .crcfin, .clrp, .pushp 0, .clrs, .pushs 0]

@[simp] theorem Instr.row_mnemonic (i : Instr) : i.row.mnemonic = i.mnemonic := rfl

theorem opcodeRows_eq : opcodeRows = commandKinds.map Instr.row := by decide

/-- The operand does not choose the row. -/
theorem Instr.row_mem_opcodeRows (i : Instr) : i.row ∈ opcodeRows := by
  have hkind : ∃ k ∈ commandKinds, k.row = i.row := by
    cases i with
    | ldtag arg => exact ⟨.ldtag 0, by decide, rfl⟩
    | crcb b => exact ⟨.crcb 0, by decide, rfl⟩
    | pushp b => exact ⟨.pushp 0, by decide, rfl⟩
    | pushs b => exact ⟨.pushs 0, by decide, rfl⟩
    | _ => exact ⟨_, by decide, rfl⟩
  rw [opcodeRows_eq]
  exact List.mem_map.2 hkind

theorem mem_opcodeRows_iff {r : OpcodeRow} : r ∈ opcodeRows ↔ ∃ i : Instr, i.row = r := by
  constructor
  · rw [opcodeRows_eq, List.mem_map]
    rintro ⟨i, -, hi⟩
    exact ⟨i, hi⟩
  · rintro ⟨i, rfl⟩
    exact i.row_mem_opcodeRows

theorem opcodeRows_mnemonics_nodup : (opcodeRows.map OpcodeRow.mnemonic).Nodup := by decide

theorem Instr.row_eq_iff_mnemonic_eq {i j : Instr} : i.row = j.row ↔ i.mnemonic = j.mnemonic := by
  constructor
  · exact congrArg OpcodeRow.mnemonic
  · exact List.inj_on_of_nodup_map opcodeRows_mnemonics_nodup i.row_mem_opcodeRows j.row_mem_opcodeRows

/-! ### What a row selects -/

theorem append_inj_iff {m n : Nat} {a c : BitVec m} {b d : BitVec n} : a ++ b = c ++ d ↔ a = c ∧ b = d := by
  constructor
  · intro h
    constructor
    · simpa using congrArg (BitVec.extractLsb' n m) h
    · simpa using congrArg (BitVec.extractLsb' 0 n) h
  · rintro ⟨rfl, rfl⟩
    rfl

/-- The row's mask and match test, field by field: the opcode is the row's and the must-be-zero bits are zero. -/
theorem and_row_mask_eq_pattern_iff (i : Instr) (w : CommandWord) :
    w &&& i.row.mask = i.row.pattern ↔ opField w = i.opcode ∧ argField w &&& i.argMask = 0#32 := by
  rw [← fields_append w, Instr.row, BitVec.and_append, append_inj_iff, BitVec.and_allOnes, opField_append,
    argField_append]

/-- An argument has the must-be-zero bits of format B zero exactly when it is a zero-extended byte. -/
theorem and_byteMask_eq_zero_iff {arg : BitVec 32} :
    arg &&& (BitVec.allOnes 24 ++ 0#8) = 0#32 ↔ ∃ b : Byte, arg = 0#24 ++ b := by
  constructor
  · intro h
    rw [← append_extract (m := 24) (n := 8) arg, BitVec.and_append, BitVec.and_allOnes] at h
    have hhigh : arg.extractLsb' 8 24 = 0#24 := ((append_inj_iff (d := 0#8)).1 h).1
    exact ⟨arg.extractLsb' 0 8, by rw [← hhigh, append_extract (m := 24) (n := 8)]⟩
  · rintro ⟨b, rfl⟩
    rw [BitVec.and_append, BitVec.zero_and, BitVec.and_zero]
    rfl

theorem Instr.argument_and_argMask (i : Instr) : i.argument &&& i.argMask = 0#32 := by
  cases i with
  | ldtag arg => exact BitVec.and_zero
  | crcb b => exact and_byteMask_eq_zero_iff.2 ⟨b, rfl⟩
  | pushp b => exact and_byteMask_eq_zero_iff.2 ⟨b, rfl⟩
  | pushs b => exact and_byteMask_eq_zero_iff.2 ⟨b, rfl⟩
  | _ => rfl

/-- Each argument the must-be-zero bits of a command's format allow is that of a command with the same row. -/
theorem Instr.exists_argument_eq (i : Instr) {arg : BitVec 32} (h : arg &&& i.argMask = 0#32) :
    ∃ j : Instr, j.row = i.row ∧ j.opcode = i.opcode ∧ j.argument = arg := by
  cases i with
  | ldtag _ => exact ⟨.ldtag arg, rfl, rfl, rfl⟩
  | crcb _ =>
    obtain ⟨b, rfl⟩ := and_byteMask_eq_zero_iff.1 h
    exact ⟨.crcb b, rfl, rfl, rfl⟩
  | pushp _ =>
    obtain ⟨b, rfl⟩ := and_byteMask_eq_zero_iff.1 h
    exact ⟨.pushp b, rfl, rfl, rfl⟩
  | pushs _ =>
    obtain ⟨b, rfl⟩ := and_byteMask_eq_zero_iff.1 h
    exact ⟨.pushs b, rfl, rfl, rfl⟩
  | _ => exact ⟨_, rfl, rfl, (BitVec.and_allOnes.symm.trans h).symm⟩

/-- A command's row is selected by exactly the words that decode to a command with that row. -/
theorem and_row_mask_eq_pattern_iff_decode (i : Instr) (w : CommandWord) :
    w &&& i.row.mask = i.row.pattern ↔ ∃ j, decode w = .ok j ∧ j.row = i.row := by
  constructor
  · rw [and_row_mask_eq_pattern_iff]
    rintro ⟨hop, harg⟩
    obtain ⟨j, hrow, hjop, hjarg⟩ := i.exists_argument_eq harg
    exact ⟨j, decode_eq_ok_iff.2 ⟨hop.trans hjop.symm, hjarg.symm⟩, hrow⟩
  · rintro ⟨j, hj, hrow⟩
    obtain ⟨hop, harg⟩ := decode_eq_ok_iff.1 hj
    rw [← hrow, and_row_mask_eq_pattern_iff, harg]
    exact ⟨hop, j.argument_and_argMask⟩

/-- Settles O4: every row of the table is a command's row (`mem_opcodeRows_iff`), and the mnemonic names the row
(`Instr.row_eq_iff_mnemonic_eq`). -/
theorem decoderAgreesWithOpcodeTable : Obligations.DecoderAgreesWithOpcodeTable := by
  intro w r hr
  obtain ⟨i, rfl⟩ := mem_opcodeRows_iff.1 hr
  simp only [and_row_mask_eq_pattern_iff_decode, Instr.row_eq_iff_mnemonic_eq, Instr.row_mnemonic]

end Sys2Proof
end

/-! ## TypeTag family (40_typetag.md) -/

section
namespace Sys2Proof.Machine

/-! ### LDTAG -/

/-- A command word as a number: the opcode above the 32 bits of the argument (30_encoding.md R86). -/
theorem encode_toNat (i : Instr) : (encode i).toNat = i.opcode.toNat * 2 ^ 32 + i.argument.toNat := by
  rw [encode, BitVec.toNat_append, ← Nat.shiftLeft_add_eq_or_of_lt i.argument.isLt, Nat.shiftLeft_eq]

/-- Loading a tag and ending the command, as LDTAG and TAGTXT do, changes TAG and STATUS only. -/
theorem unchanged_tag_done (s : State) (v : Bytes4) :
    UnchangedExcept [.tag, .status] s (State.done { s with tag := v }) :=
  (unchanged_tag s v).trans (unchanged_done _)

/-- Settles O23: the word by `encode_toNat`, the bytes by `bytesBe32_toNat`. -/
theorem ldtagLoadsRawBytes : Obligations.LdtagLoadsRawBytes := by
  intro arg s
  obtain ⟨h0, h1, h2, h3⟩ := bytesBe32_toNat arg
  have hword : (encode (.ldtag arg)).toNat = 0x1000000000 + arg.toNat := by
    simp [encode_toNat, Instr.opcode, Instr.argument]
  exact ⟨hword, _, exec_eq _ s, h0, h1, h2, h3, be32_bytesBe32 arg, congrArg BitVec.toNat (State.done_err _),
    unchanged_tag_done s _⟩

/-! ### TAGTXT -/

theorem exists_bytes4_toList_eq {x : List Byte} (h : x.length = 4) : ∃ t : Bytes4, t.toList = x := by
  obtain ⟨b0, b1, b2, b3, rfl⟩ := List.length_eq_four.1 h
  exact ⟨⟨b0, b1, b2, b3⟩, rfl⟩

theorem tagtxtEffect_of_slen_ne {s : State} (h : s.slen ≠ 4#33) : tagtxtEffect s = s.raise .wrongLength :=
  if_pos h

theorem tagtxtEffect_of_text {s : State} {t : Bytes4} (hlen : s.slen = 4#33) (htext : s.sbBytes = t.toList) :
    tagtxtEffect s = loadText t s := by
  simp [tagtxtEffect, hlen, htext, Bytes4.toList]

theorem loadText_of_letters {t : Bytes4} (h : ∀ b ∈ t.toList, AsciiLetter b) (s : State) :
    loadText t s = State.done { s with tag := t } := by
  simp [loadText, (allLetters_iff t).2 h]

theorem loadText_of_nonletter {t : Bytes4} (h : ∃ b ∈ t.toList, ¬ AsciiLetter b) (s : State) :
    loadText t s = s.raise .invalidCharacter := by
  have hnot : allLetters t = false := by
    rw [Bool.eq_false_iff, ne_eq, allLetters_iff]
    simpa using h
  simp [loadText, hnot]

/-- Settles O24: under the invariant a fill count of 4 makes SB the bytes of one text (`tagtxtEffect_of_text`), which is
loaded or refused by its letters. -/
theorem tagtxtChecksLengthThenLetters : Obligations.TagtxtChecksLengthThenLetters := by
  refine ⟨rfl, fun s hinv => ⟨tagtxtEffect s, exec_eq _ s, ?_⟩⟩
  by_cases hlen : s.slen.toNat = 4
  · obtain ⟨t, ht⟩ := exists_bytes4_toList_eq (hinv.slen_eq.symm.trans hlen)
    rw [tagtxtEffect_of_text (t := t) (BitVec.eq_of_toNat_eq hlen) (hinv.sbBytes_eq.trans ht.symm), ← ht]
    refine ⟨fun hne => absurd hlen hne, fun _ hbad => ?_, fun _ hletters => ?_⟩
    · rw [loadText_of_nonletter hbad]
      exact ⟨congrArg BitVec.toNat (s.raise_err _), unchanged_raise s _⟩
    · rw [loadText_of_letters hletters]
      exact ⟨congrArg BitVec.toNat (State.done_err _), rfl, unchanged_tag_done s t⟩
  · rw [tagtxtEffect_of_slen_ne fun h => hlen (congrArg BitVec.toNat h)]
    exact ⟨fun _ => ⟨congrArg BitVec.toNat (s.raise_err _), unchanged_raise s _⟩, fun h => absurd h hlen,
      fun h => absurd h hlen⟩

/-! ### The queries -/

theorem boolWord_bit5_toNat (b : Byte) : (boolWord (bit5 b)).toNat = digit5 b := by
  rw [boolWord_toNat, bit5_eq_digit]

theorem boolWord_not_bit5_toNat (b : Byte) : (boolWord (!bit5 b)).toNat = 1 - digit5 b := by
  rw [← bit5_eq_digit, boolWord_toNat]
  cases bit5 b <;> rfl

/-- A command that is a query ends with ERR = 0 and its answer in RES, and changes nothing else. -/
theorem exec_query {i : Instr} {s : State} {answer : Bool} {v : Nat} (hi : effect i s = answerQuery answer s)
    (hv : (boolWord answer).toNat = v) :
    ∃ t, exec i s = .next t ∧ t.res.toNat = v ∧ t.err.toNat = 0 ∧ UnchangedExcept [.res, .status] s t := by
  refine ⟨answerQuery answer s, ?_, hv, ?_, unchanged_answerQuery s answer⟩
  · rw [exec_eq, hi]
  · rw [answerQuery_err]
    rfl

/-- Settles O25: each command is a query (`exec_query`), QVALID's answer is validity (`tagValid_iff`), and the others' are
one bit of the tag. -/
theorem tagQueriesAnswerFromTagBits : Obligations.TagQueriesAnswerFromTagBits := by
  refine ⟨⟨rfl, rfl, rfl, rfl, rfl⟩, fun s => ⟨?_, exec_query rfl (boolWord_not_bit5_toNat _),
    exec_query rfl (boolWord_not_bit5_toNat _), exec_query rfl (boolWord_not_bit5_toNat _),
    exec_query rfl (boolWord_bit5_toNat _)⟩⟩
  obtain ⟨t, hexec, hres, hend⟩ := exec_query (i := .qvalid) (s := s) rfl (boolWord_toNat (tagValid s.tag))
  exact ⟨t, hexec, fun hvalid => hres.trans (if_pos ((tagValid_iff _).2 hvalid)),
    fun hbad => hres.trans (if_neg (mt (tagValid_iff _).1 hbad)), hend⟩

/-! ### TAGSTR -/

theorem allAscii_iff (t : Bytes4) : allAscii t = true ↔ ∀ b ∈ t.toList, b.toNat < 0x80 := by
  simp [allAscii, BitVec.lt_def]

/-- R113 in the words of the claims: ASCII bytes only under `reject`, and well-formed UTF-8 under `accept`. -/
theorem tagRenderable_iff (m : TagstrMultibyte) (t : Bytes4) : tagRenderable m t = true ↔
    (∀ b ∈ t.toList, b.toNat < 0x80) ∨ (Utf8Text t.toList ∧ m = .accept) := by
  simp [tagRenderable, allAscii_iff, utf8ScannerMatchesTable t.toList]

theorem utf8Text_of_ascii {t : Bytes4} (h : ∀ b ∈ t.toList, b.toNat < 0x80) : Utf8Text t.toList :=
  (utf8ScannerMatchesTable _).1 (utf8Valid_of_allAscii t ((allAscii_iff t).2 h))

/-- TAGSTR changes ERR only, and ERR says whether the tag is renderable (R121). -/
theorem effect_tagstr_verdict (s : State) : UnchangedExcept [.status] s (effect .tagstr s) ∧
    (effect .tagstr s).err.toNat = if tagRenderable s.params.tagstrMultibyte s.tag then 0 else 8 := by
  rw [effect]
  cases tagRenderable s.params.tagstrMultibyte s.tag with
  | false => exact ⟨unchanged_raise s _, congrArg BitVec.toNat (s.raise_err _)⟩
  | true => exact ⟨unchanged_done s, congrArg BitVec.toNat s.done_err⟩

/-- Settles O26: ERR is 0 exactly for a renderable tag (`effect_tagstr_verdict`), and each clause decides
`tagRenderable_iff`. -/
theorem tagstrVerdict : Obligations.TagstrVerdict := by
  refine ⟨rfl, fun s => ?_⟩
  obtain ⟨hframe, herr⟩ := effect_tagstr_verdict s
  have hrender := tagRenderable_iff s.params.tagstrMultibyte s.tag
  refine ⟨effect .tagstr s, exec_eq _ s, hframe, fun hascii => ?_, fun hbad => ?_,
    fun htext hhigh => ⟨fun hm => ?_, fun hm => ?_⟩⟩
  · exact herr.trans (if_pos (hrender.2 (.inl hascii)))
  · refine herr.trans (if_neg fun h => hbad ?_)
    obtain hascii | ⟨htext, -⟩ := hrender.1 h
    · exact utf8Text_of_ascii hascii
    · exact htext
  · obtain ⟨b, hb, hge⟩ := hhigh
    refine herr.trans (if_neg fun h => ?_)
    obtain hascii | ⟨-, haccept⟩ := hrender.1 h
    · exact absurd (hascii b hb) (Nat.not_lt.2 hge)
    · simp [hm] at haccept
  · exact herr.trans (if_pos (hrender.2 (.inr ⟨htext, hm⟩)))

end Sys2Proof.Machine
end

/-! ## Chunk family (41_chunk.md) -/

section
namespace Sys2Proof.Machine

/-! ### How a command ends -/

/-- `raise` leaves the error's code in ERR and changes nothing else (R243). -/
theorem raise_verdict (s : State) (e : ErrorKind) :
    (s.raise e).err.toNat = e.code.toNat ∧ UnchangedExcept [.status] s (s.raise e) :=
  ⟨congrArg BitVec.toNat (s.raise_err e), unchanged_raise s e⟩

/-- A command that delivers a result leaves 0 in ERR and changes nothing but RES and STATUS (R26, R230). -/
theorem setRes_done_verdict (s : State) (v : Word) :
    (s.setRes v).done.err.toNat = 0 ∧ UnchangedExcept [.res, .status] s (s.setRes v).done :=
  ⟨congrArg BitVec.toNat (State.done_err _), (unchanged_setRes s v).trans (unchanged_done _)⟩

/-! ### QLEN, CSUM -/

/-- Settles O38: both commands write RES and end with `done` (`setRes_done_verdict`). -/
theorem qlenAndCsumResults : Obligations.QlenAndCsumResults := by
  refine ⟨rfl, rfl, fun s => ⟨?_, ?_⟩⟩
  · exact ⟨_, exec_eq _ s, rfl, setRes_done_verdict s _⟩
  · exact ⟨_, exec_eq _ s, rfl, setRes_done_verdict s _⟩

/-! ### PAYSTR -/

/-- PAYSTR changes ERR only, and ERR says whether the scanner accepts the payload (R148). -/
theorem effect_paystr_verdict (s : State) :
    (effect .paystr s).err.toNat = (if utf8Valid s.payBytes then 0 else 7) ∧
      UnchangedExcept [.status] s (effect .paystr s) := by
  rw [effect]
  cases utf8Valid s.payBytes with
  | false => exact raise_verdict s .notUtf8
  | true => exact ⟨congrArg BitVec.toNat s.done_err, unchanged_done s⟩

/-- Settles O41: ERR is the scanner's verdict (`effect_paystr_verdict`), and the scanner decides R12's table
(`utf8ScannerMatchesTable`). -/
theorem paystrVerdict : Obligations.PaystrVerdict := by
  refine ⟨rfl, fun s => ?_⟩
  obtain ⟨herr, hframe⟩ := effect_paystr_verdict s
  have hscan : utf8Valid s.payBytes = true ↔ Utf8Text s.payBytes := utf8ScannerMatchesTable _
  exact ⟨_, exec_eq _ s, hframe, fun htext => herr.trans (if_pos (hscan.2 htext)),
    fun hbad => herr.trans (if_neg (mt hscan.1 hbad))⟩

/-! ### ENCODE -/

/-- The record of the chunk fits in SB (R146): its length is in SLEN's range. -/
theorem Invariant.encodeRecord_length_lt {s : State} (h : Invariant s) :
    (encodeRecord s.tag s.pay).length < 2 ^ 33 := by
  have := h.len_lt
  rw [encodeRecord_length]
  omega

theorem effect_encode {s : State} (h : Invariant s) :
    effect .encode s = (s.writeSb (encodeRecord s.tag s.pay)).done := by
  rw [effect, h.payBytes_eq]

theorem effect_encode_sbBytes {s : State} (h : Invariant s) :
    (effect .encode s).sbBytes = encodeRecord s.tag s.pay := by
  rw [effect_encode h, State.done_sbBytes, s.writeSb_sbBytes h.encodeRecord_length_lt]

section
variable {s : State} {g : Bytes4} {p : List Byte} (h : s.sbBytes = encodeRecord g p)
include h

/-! What a host samples of a record in SB, field by field (30_encoding.md R81). -/

theorem fieldAt_length_of_record (hp : p.length < 2 ^ 32) : FieldAt s 0 p.length := by
  rw [encodeRecord_eq, List.append_assoc] at h
  have hfield : FieldAt s 0 (BitVec.ofNat 32 p.length).toNat := FieldAt.of_append (pre := []) h
  rwa [BitVec.toNat_ofNat, Nat.mod_eq_of_lt hp] at hfield

theorem tagFieldIs_of_record : TagFieldIs s g :=
  TagFieldIs.of_header (h.trans (encodeRecord_eq g p))

theorem sampleSb_payload_of_record {i : Nat} (hi : i < p.length) : s.sampleSb (8 + i) = p[i]? := by
  have hhead : ((bytesBe32 (BitVec.ofNat 32 p.length)).toList ++ g.toList).length = 8 := rfl
  rw [State.sampleSb, h, encodeRecord_eq, List.getElem?_append_right (by omega), hhead, Nat.add_sub_cancel_left,
    List.getElem?_append_left hi]

theorem fieldAt_checksum_of_record : FieldAt s (8 + p.length) (chunkCrc g p).toNat := by
  have hlen : ((bytesBe32 (BitVec.ofNat 32 p.length)).toList ++ g.toList ++ p).length = 8 + p.length := by simp; omega
  rw [encodeRecord_eq, ← List.append_assoc] at h
  exact hlen ▸ FieldAt.of_append h

theorem sampleSb_beyond_record {i : Nat} (hi : 12 + p.length ≤ i) : s.sampleSb i = none := by
  rw [State.sampleSb, h]
  exact List.getElem?_eq_none (by rw [encodeRecord_length]; exact hi)

end

/-- Settles O39: SB becomes the record (`effect_encode_sbBytes`), sampled field by field. -/
theorem encodeWritesRecordFields : Obligations.EncodeWritesRecordFields := by
  refine ⟨rfl, fun s hinv => ⟨effect .encode s, exec_eq _ s, ?_⟩⟩
  have hsb := effect_encode_sbBytes hinv
  have hslen : (effect .encode s).slen.toNat = 12 + s.pay.length := by
    rw [effect_encode hinv, State.done_slen, s.writeSb_slen_toNat hinv.encodeRecord_length_lt, encodeRecord_length]
  have hframe : UnchangedExcept [.sb, .slen, .status] s (effect .encode s) :=
    ((unchanged_writeSb s _).trans (unchanged_done _)).mono (by simp)
  have hpay (i : Nat) : s.samplePay i = s.pay[i]? := by rw [State.samplePay, hinv.payBytes_eq]
  rw [hinv.len_eq]
  exact ⟨congrArg BitVec.toNat (State.done_err _), hframe, hslen, fieldAt_length_of_record hsb hinv.len_lt,
    tagFieldIs_of_record hsb, fun i hi => (sampleSb_payload_of_record hsb hi).trans (hpay i).symm,
    fieldAt_checksum_of_record hsb, fun i hi => sampleSb_beyond_record hsb hi⟩

/-! ### DECODE -/

/-- Step 1 of R143. -/
theorem decodeRecord_of_short {x : List Byte} (h : x.length < 12) : decodeRecord x = .tooShort :=
  if_pos h

theorem FieldAt.lt {s : State} {a v : Nat} (h : FieldAt s a v) : v < 2 ^ 32 := by
  obtain ⟨b0, b1, b2, b3, -, -, -, -, rfl⟩ := h
  exact be32_toNat ⟨b0, b1, b2, b3⟩ ▸ (be32 _).isLt

/-- The sampled length and tag fields are the header of SB's bytes (R81). -/
theorem sbBytes_eq_header {s : State} {n : Nat} {g : Bytes4} (h8 : 8 ≤ s.sbBytes.length) (hn : FieldAt s 0 n)
    (hg : TagFieldIs s g) :
    ∃ l : Word, l.toNat = n ∧ s.sbBytes = (bytesBe32 l).toList ++ g.toList ++ s.sbBytes.drop 8 := by
  obtain ⟨l, t, rest, hs⟩ := exists_header h8
  have hl : FieldAt s 0 l.toNat := FieldAt.of_append (pre := []) (hs.trans (List.append_assoc _ _ _))
  obtain rfl : t = g := (TagFieldIs.of_header hs).unique hg
  have hrest : s.sbBytes.drop 8 = rest := by rw [hs]; rfl
  exact ⟨l, hl.unique hn, hrest ▸ hs⟩

/-- Steps 2 to 4 of R143 on the bytes of SB, by the sampled fields of the header. -/
theorem decodeRecord_sbBytes {s : State} {n : Nat} {g : Bytes4} (h12 : 12 ≤ s.sbBytes.length) (hn : FieldAt s 0 n)
    (hg : TagFieldIs s g) :
    decodeRecord s.sbBytes =
      if tagValid g = false then .invalidTag
      else if s.sbBytes.length < 12 + n then .truncatedPayload
      else decodeBody g n (s.sbBytes.drop 8) := by
  obtain ⟨l, rfl, hs⟩ := sbBytes_eq_header (by omega) hn hg
  have hlong : ¬ (s.sbBytes.drop 8).length < 4 := by rw [List.length_drop]; omega
  have hbody : (s.sbBytes.drop 8).length < l.toNat + 4 ↔ s.sbBytes.length < 12 + l.toNat := by
    rw [List.length_drop]; omega
  conv_lhs => rw [hs, decodeRecord_header, if_neg hlong]
  simp only [hbody]

/-- Steps 5 to 7 of R143 on the bytes of SB, by the sampled checksum field. -/
theorem decodeBody_sbBytes {s : State} {n : Nat} {c : Word} (g : Bytes4) (h : 12 + n ≤ s.sbBytes.length)
    (hc : FieldAt s (8 + n) c.toNat) :
    decodeBody g n (s.sbBytes.drop 8) =
      if chunkCrc g (recordPayload s n) = c then .chunk g (recordPayload s n)
      else .checksumMismatch (chunkCrc g (recordPayload s n)) c := by
  obtain ⟨p, d, x, rfl, hbody⟩ := exists_body (rest := s.sbBytes.drop 8) (n := n) (by rw [List.length_drop]; omega)
  have hp : recordPayload s p.length = p := by rw [recordPayload, hbody, List.take_left]
  have hsb : s.sbBytes = (s.sbBytes.take 8 ++ p) ++ ((bytesBe32 d).toList ++ x) := by
    rw [List.append_assoc, ← hbody, List.take_append_drop]
  have hlen : (s.sbBytes.take 8 ++ p).length = 8 + p.length := by simp; omega
  have hd : FieldAt s (8 + p.length) d.toNat := hlen ▸ FieldAt.of_append hsb
  obtain rfl : d = c := BitVec.eq_of_toNat_eq (hd.unique hc)
  rw [hbody, decodeBody_fields, hp]

theorem recordPayload_length {s : State} {n : Nat} (h : 12 + n ≤ s.sbBytes.length) :
    (recordPayload s n).length = n := by
  simp only [recordPayload, List.length_take, List.length_drop]
  omega

theorem recordPayload_getElem? (s : State) {n i : Nat} (hi : i < n) :
    (recordPayload s n)[i]? = s.sampleSb (8 + i) := by
  rw [recordPayload, List.getElem?_take_of_lt hi, List.getElem?_drop, State.sampleSb]

section
variable {s : State} {n : Nat} {g : Bytes4} (h12 : 12 ≤ s.sbBytes.length) (hn : FieldAt s 0 n) (hg : TagFieldIs s g)
include h12 hn hg

/-! The results of R143 on the bytes of SB, by the sampled fields. -/

theorem decodeRecord_eq_invalidTag (hbad : ¬ ValidTag g) : decodeRecord s.sbBytes = .invalidTag := by
  rw [decodeRecord_sbBytes h12 hn hg, if_pos (Bool.eq_false_iff.2 (mt (tagValid_iff g).1 hbad))]

theorem decodeRecord_eq_truncatedPayload (hv : ValidTag g) (hlen : s.sbBytes.length < 12 + n) :
    decodeRecord s.sbBytes = .truncatedPayload := by
  rw [decodeRecord_sbBytes h12 hn hg, (tagValid_iff g).2 hv, if_neg Bool.noConfusion, if_pos hlen]

theorem decodeRecord_eq_of_checksumField (hv : ValidTag g) (hlen : 12 + n ≤ s.sbBytes.length) {c : Word}
    (hc : FieldAt s (8 + n) c.toNat) :
    decodeRecord s.sbBytes =
      if chunkCrc g (recordPayload s n) = c then .chunk g (recordPayload s n)
      else .checksumMismatch (chunkCrc g (recordPayload s n)) c := by
  rw [decodeRecord_sbBytes h12 hn hg, (tagValid_iff g).2 hv, if_neg Bool.noConfusion, if_neg (Nat.not_lt.2 hlen),
    decodeBody_sbBytes g hlen hc]

end

theorem effect_decode_of_eq {s : State} {r : DecodeResult} (h : decodeRecord s.sbBytes = r) :
    effect .decode s = deliver r s := by
  rw [effect, h]

/-- Delivering a chunk changes TAG, LEN, PAY and STATUS only (R147). -/
theorem unchanged_deliver_chunk (s : State) (g : Bytes4) (p : List Byte) :
    UnchangedExcept [.tag, .len, .pay, .status] s (deliver (.chunk g p) s) :=
  (unchanged_tag s g).trans ((unchanged_writePay _ p).trans (unchanged_done _))

/-- Settles O40: the sampled fields decide the result of `decode` on SB's bytes (`decodeRecord_sbBytes`,
`decodeBody_sbBytes`), and `deliver` carries it out. -/
theorem decodeFollowsItsChecks : Obligations.DecodeFollowsItsChecks := by
  refine ⟨rfl, fun s hinv => ⟨effect .decode s, exec_eq _ s, ?_⟩⟩
  have hslen : s.slen.toNat = s.sbBytes.length := by rw [hinv.sbBytes_eq, hinv.slen_eq]
  rw [hslen]
  refine ⟨fun hshort => ?_, fun n g h12 hn hg => ⟨fun hbad => ?_, fun hv htrunc => ?_, fun hv hlen a ha hne => ?_,
    fun hv hlen hc => ?_⟩⟩
  · rw [effect_decode_of_eq (decodeRecord_of_short hshort)]
    exact raise_verdict s .tooShort
  · rw [effect_decode_of_eq (decodeRecord_eq_invalidTag h12 hn hg hbad)]
    exact raise_verdict s .invalidTag
  · rw [effect_decode_of_eq (decodeRecord_eq_truncatedPayload h12 hn hg hv htrunc)]
    exact raise_verdict s .truncatedPayload
  · obtain ⟨c, rfl⟩ : ∃ c : Word, c.toNat = a := ⟨_, BitVec.toNat_ofNatLT a ha.lt⟩
    have hdiff : chunkCrc g (recordPayload s n) ≠ c := fun h => hne (congrArg BitVec.toNat h)
    have hresult := (decodeRecord_eq_of_checksumField h12 hn hg hv hlen ha).trans (if_neg hdiff)
    rw [effect_decode_of_eq hresult]
    exact ⟨congrArg BitVec.toNat (State.raiseMismatch_err s _ _), rfl, rfl, unchanged_raiseMismatch s _ _⟩
  · have hresult := (decodeRecord_eq_of_checksumField h12 hn hg hv hlen hc).trans (if_pos rfl)
    have hplen : (recordPayload s n).length = n := recordPayload_length hlen
    have hp32 : (recordPayload s n).length < 2 ^ 32 := by rw [hplen]; exact hn.lt
    rw [effect_decode_of_eq hresult]
    refine ⟨congrArg BitVec.toNat (State.done_err _), rfl, ?_, rfl, fun i hi => ?_, unchanged_deliver_chunk s g _⟩
    · rw [deliver, State.done_len, State.writePay_len_toNat _ hp32, hplen]
    · rw [deliver, State.samplePay, State.done_payBytes, State.writePay_payBytes _ hp32, recordPayload_getElem? s hi]

end Sys2Proof.Machine
end

/-! ## CRC-32 family (42_crc32.md) -/

section
namespace Sys2Proof.Machine

/-! ### The table form of a step (R184) -/

/-- The 256 literals of R184 are the loop of R181 on 0 to 255. Only running the loop compares it with a
literal, and the kernel does so for each. -/
theorem crcTable_eq : crcTable = (List.range 256).map fun i => crcLoop 8 (BitVec.ofNat 32 i) := by
  decide +kernel

theorem crcTable_getElem? {i : Nat} (hi : i < 256) : crcTable[i]? = some (crcLoop 8 (BitVec.ofNat 32 i)) := by
  rw [crcTable_eq, List.getElem?_map, List.getElem?_range hi, Option.map_some]

/-- Where the low `n` bits are 0, no iteration adds the polynomial: the loop only shifts. -/
theorem crcLoop_eq_ushiftRight {n : Nat} {c : Word} (h : ∀ i < n, c.getLsbD i = false) : crcLoop n c = c >>> n := by
  induction n generalizing c with
  | zero => rw [crcLoop, BitVec.ushiftRight_zero]
  | succ n ih =>
    have hstep : crcShift c = c >>> 1 := if_neg (Bool.eq_false_iff.1 (h 0 n.succ_pos))
    have hrest : ∀ i < n, (c >>> 1).getLsbD i = false := fun i hi => by
      rw [BitVec.getLsbD_ushiftRight, h (1 + i) (by omega)]
    rw [crcLoop, hstep, ih hrest, ← BitVec.shiftRight_add, Nat.add_comm]

theorem getLsbD_ofNat_mod_256 (c : Word) (i : Nat) :
    (BitVec.ofNat 32 (c.toNat % 256)).getLsbD i = (decide (i < 8) && c.getLsbD i) := by
  have hbit : (c.toNat % 256).testBit i = (decide (i < 8) && c.getLsbD i) := Nat.testBit_mod_two_pow c.toNat 8 i
  rw [BitVec.getLsbD_ofNat, hbit]
  by_cases h8 : i < 8
  · simp [show i < 32 by omega]
  · simp [h8]

/-- The loop acts on a word's low byte and on the rest apart (`crcLoop_xor`), and the rest it only shifts. -/
theorem crcLoop_eight_eq (c : Word) :
    crcLoop 8 c = crcLoop 8 (BitVec.ofNat 32 (c.toNat % 256)) ^^^ c >>> 8 := by
  have hbits := getLsbD_ofNat_mod_256 c
  generalize BitVec.ofNat 32 (c.toNat % 256) = low at hbits ⊢
  have hhigh : ∀ i < 8, (low ^^^ c).getLsbD i = false := fun i hi => by simp [hbits, hi]
  have hlow : low >>> 8 = 0#32 := BitVec.eq_of_getLsbD_eq fun i _ => by simp [hbits]
  calc crcLoop 8 c
    _ = crcLoop 8 (low ^^^ (low ^^^ c)) := by rw [← BitVec.xor_assoc, BitVec.xor_self, BitVec.zero_xor]
    _ = crcLoop 8 low ^^^ (low ^^^ c) >>> 8 := by rw [crcLoop_xor, crcLoop_eq_ushiftRight hhigh]
    _ = crcLoop 8 low ^^^ c >>> 8 := by rw [BitVec.ushiftRight_xor_distrib, hlow, BitVec.zero_xor]

/-- R184, for every register value and byte: the table has the entry, and the table form is the step of R181. -/
theorem crcStepByTable_eq (c : Word) (b : Byte) : crcStepByTable c b = some (crcStep c b) := by
  have hshift : (c ^^^ b.setWidth 32) >>> 8 = c >>> 8 := BitVec.eq_of_getLsbD_eq fun i _ => by simp
  rw [crcStepByTable, crcTable_getElem? (Nat.mod_lt _ (by decide)), Option.map_some, crcStep,
    crcLoop_eight_eq (c ^^^ b.setWidth 32), hshift]

/-! ### The commands -/

/-- A command that writes the CRC register leaves 0 in ERR and changes nothing but CRC and STATUS (R186, R187). -/
theorem crc_done_verdict (s : State) (v : Word) :
    (State.done { s with crc := v }).err.toNat = 0 ∧
      UnchangedExcept [.crc, .status] s (State.done { s with crc := v }) :=
  ⟨congrArg BitVec.toNat (State.done_err _), (unchanged_crc s v).trans (unchanged_done _)⟩

/-- The final exclusive-or is the complement (R188). -/
theorem xor_crcXorOut_toNat (c : Word) : (c ^^^ crcXorOut).toNat = 2 ^ 32 - 1 - c.toNat := by
  have hones : crcXorOut = BitVec.allOnes 32 := rfl
  rw [hones, BitVec.xor_allOnes, BitVec.toNat_not]

/-- Settles O30: CRCINIT and CRCB write CRC and end with `done` (`crc_done_verdict`), CRCB's step is the table form
(`crcStepByTable_eq`), and CRCFIN delivers the complement in RES (`setRes_done_verdict`). -/
theorem crcCommandResults : Obligations.CrcCommandResults := by
  refine ⟨rfl, rfl, fun b => ?_, fun s => ⟨?_, fun b => ?_, ?_⟩⟩
  · have harg : (Instr.crcb b).argument.toNat = b.toNat := zero_append_toNat b
    simp [encode_toNat, harg, Instr.opcode]
  · exact ⟨_, exec_eq _ s, rfl, crc_done_verdict s _⟩
  · exact ⟨_, exec_eq _ s, crcStepByTable_eq s.crc b, crc_done_verdict s _⟩
  · exact ⟨_, exec_eq _ s, xor_crcXorOut_toNat s.crc, setRes_done_verdict s _⟩

end Sys2Proof.Machine
end

/-! ## Buffer-access family (43_buffers.md) -/

section
namespace Sys2Proof.Machine

theorem done_err_toNat (s : State) : s.done.err.toNat = 0 :=
  congrArg BitVec.toNat s.done_err

/-! ### PUSHP, PUSHS -/

/-- The word of a command of format B: the opcode's word plus the byte (30_encoding.md R86). -/
theorem encode_toNat_of_byte {i : Instr} {b : Byte} {m : Nat} (hop : i.opcode.toNat * 2 ^ 32 = m)
    (harg : i.argument = 0#24 ++ b) : (encode i).toNat = m + b.toNat := by
  rw [encode_toNat, hop, harg, zero_append_toNat]

/-- `MemWrite(B, n, 1, [b])` at the fill count `n`: the byte stands at offset `n`, and every other offset samples as
before. -/
theorem getElem?_append_byte {x : List Byte} {n : Nat} (hn : n = x.length) (b : Byte) :
    (x ++ [b])[n]? = some b ∧ ∀ i, i ≠ n → (x ++ [b])[i]? = x[i]? := by
  subst hn
  refine ⟨List.getElem?_concat_length, fun i hi => ?_⟩
  obtain hlt | hgt := Nat.lt_or_gt_of_ne hi
  · exact List.getElem?_append_left hlt
  · rw [List.getElem?_eq_none hgt.le, List.getElem?_eq_none (by simpa using hgt)]

theorem effect_pushp_of_room {s : State} (b : Byte) (h : s.len.toNat < s.params.payCap.val) :
    effect (.pushp b) s = (s.appendPay b).done :=
  if_neg (Nat.not_le.2 h)

theorem effect_pushp_of_full {s : State} (b : Byte) (h : s.params.payCap.val ≤ s.len.toNat) :
    effect (.pushp b) s = s.raise .capacity :=
  if_pos h

theorem effect_pushs_of_room {s : State} (b : Byte) (h : s.slen.toNat < s.params.sbCap) :
    effect (.pushs b) s = (s.appendSb b).done :=
  if_neg (Nat.not_le.2 h)

theorem effect_pushs_of_full {s : State} (b : Byte) (h : s.params.sbCap ≤ s.slen.toNat) :
    effect (.pushs b) s = s.raise .capacity :=
  if_pos h

/-- Settles O51: below PAY_CAP the byte is appended at LEN (`getElem?_append_byte`), and at PAY_CAP the command only raises
Capacity (`raise_verdict`). -/
theorem pushpAppendsOrRaisesCapacity : Obligations.PushpAppendsOrRaisesCapacity := by
  intro b s hinv
  refine ⟨encode_toNat_of_byte (by simp [Instr.opcode]) rfl, effect (.pushp b) s, exec_eq _ s,
    fun hroom => ?_, fun hfull => ?_⟩
  · obtain ⟨hnew, hold⟩ := getElem?_append_byte hinv.len_eq b
    have hsample (i : Nat) : (s.appendPay b).done.samplePay i = (s.pay ++ [b])[i]? := by
      rw [State.samplePay, State.done_payBytes, s.appendPay_payBytes b hinv.len_eq hroom]
    have hbefore (i : Nat) : s.samplePay i = s.pay[i]? := by rw [State.samplePay, hinv.payBytes_eq]
    rw [effect_pushp_of_room b hroom]
    exact ⟨done_err_toNat _, s.appendPay_len_toNat b hroom, (hsample _).trans hnew,
      fun i hi => (hsample i).trans ((hold i hi).trans (hbefore i).symm),
      ((unchanged_appendPay s b).trans (unchanged_done _)).mono (by simp)⟩
  · rw [effect_pushp_of_full b hfull]
    exact raise_verdict s .capacity

/-- Settles O52: below SB_CAP the byte is appended at SLEN (`getElem?_append_byte`), and at SB_CAP the command only raises
Capacity (`raise_verdict`). -/
theorem pushsAppendsOrRaisesCapacity : Obligations.PushsAppendsOrRaisesCapacity := by
  intro b s hinv
  refine ⟨encode_toNat_of_byte (by simp [Instr.opcode]) rfl, effect (.pushs b) s, exec_eq _ s,
    fun hroom => ?_, fun hfull => ?_⟩
  · obtain ⟨hnew, hold⟩ := getElem?_append_byte hinv.slen_eq b
    have hsample (i : Nat) : (s.appendSb b).done.sampleSb i = (s.sb ++ [b])[i]? := by
      rw [State.sampleSb, State.done_sbBytes, s.appendSb_sbBytes b hinv.slen_eq hroom]
    have hbefore (i : Nat) : s.sampleSb i = s.sb[i]? := by rw [State.sampleSb, hinv.sbBytes_eq]
    rw [effect_pushs_of_room b hroom]
    exact ⟨done_err_toNat _, s.appendSb_slen_toNat b hroom, (hsample _).trans hnew,
      fun i hi => (hsample i).trans ((hold i hi).trans (hbefore i).symm),
      ((unchanged_appendSb s b).trans (unchanged_done _)).mono (by simp)⟩
  · rw [effect_pushs_of_full b hfull]
    exact raise_verdict s .capacity

/-! ### CLRP, CLRS -/

/-- Settles O50: each command writes the empty sequence to its buffer, whose valid bytes are then none
(`State.writePay_payBytes`, `State.writeSb_sbBytes`), and ends with `done`. -/
theorem clearCommandsEmptyTheirBuffer : Obligations.ClearCommandsEmptyTheirBuffer := by
  refine ⟨rfl, rfl, fun s => ⟨?_, ?_⟩⟩
  · have hempty : (s.writePay []).done.payBytes = [] := s.writePay_payBytes (by decide)
    refine ⟨_, exec_eq _ s, rfl, fun i => ?_, done_err_toNat _,
      ((unchanged_writePay s _).trans (unchanged_done _)).mono (by simp)⟩
    rw [State.samplePay, effect, hempty, List.getElem?_nil]
  · have hempty : (s.writeSb []).done.sbBytes = [] := s.writeSb_sbBytes (by decide)
    refine ⟨_, exec_eq _ s, rfl, fun i => ?_, done_err_toNat _,
      ((unchanged_writeSb s _).trans (unchanged_done _)).mono (by simp)⟩
    rw [State.sampleSb, effect, hempty, List.getElem?_nil]

/-! ### NOP -/

/-- Settles O49: NOP is `done` alone. -/
theorem nopOnlyClearsErr : Obligations.NopOnlyClearsErr :=
  ⟨rfl, fun s => ⟨s.done, exec_eq _ s, done_err_toNat s, unchanged_done s⟩⟩

end Sys2Proof.Machine
end

/-! ## Exceptions (60_exceptions.md) -/

section
namespace Sys2Proof.Machine

/-- The codes of R231 set ChecksumMismatch apart from every other error. -/
theorem ErrorKind.code_toNat_eq_six_iff (e : ErrorKind) : e.code.toNat = 6 ↔ e = .checksumMismatch := by
  cases e <;> decide

/-- How a command from `s` can end in `t` (R230, R243): by `done` in some state, by raising an error in `s` itself, or, for
DECODE, by reporting a checksum mismatch in `s` itself. -/
inductive Ending (i : Instr) (s : State) : State → Prop where
  | done (u : State) : Ending i s u.done
  | raise (e : ErrorKind) (he : e ≠ .checksumMismatch) : Ending i s (s.raise e)
  | mismatch (hi : i = .decode) (expected actual : Word) : Ending i s (s.raiseMismatch expected actual)

/-- A command that tests one condition before it writes anything. -/
theorem Ending.of_check {i : Instr} {s : State} (fails : Prop) [Decidable fails] {e : ErrorKind}
    (he : e ≠ .checksumMismatch) (u : State) : Ending i s (if fails then s.raise e else u.done) := by
  split
  · exact .raise e he
  · exact .done u

theorem tagtxtEffect_ending (s : State) : Ending .tagtxt s (tagtxtEffect s) := by
  obtain h | h | ⟨t, -, -, h⟩ := tagtxtEffect_cases s <;> rw [h]
  · exact .raise _ (by decide)
  · exact .raise _ (by decide)
  · exact .done _

theorem deliver_ending (r : DecodeResult) (s : State) : Ending .decode s (deliver r s) := by
  obtain ⟨e, he, h⟩ | ⟨expected, actual, -, h⟩ | ⟨t, p, -, h⟩ := deliver_cases r s <;> rw [h]
  · exact .raise e (by rintro rfl; simp at he)
  · exact .mismatch rfl expected actual
  · exact .done _

/-- Only six commands can raise; each tests before it writes. -/
theorem effect_ending (i : Instr) (s : State) : Ending i s (effect i s) := by
  cases i with
  | tagtxt => exact tagtxtEffect_ending s
  | decode => exact deliver_ending _ s
  | tagstr | paystr | pushp | pushs => exact .of_check _ (by decide) _
  | nop | ldtag | qvalid | qcrit | qpub | qrsv | qsafe | qlen | csum | encode | crcinit | crcb | crcfin | clrp | clrs =>
    exact .done _

/-- Settles O16: a command ends in one of three ways (`effect_ending`). `done` leaves ERR = 0, and the other two start from
the state before the command, so their frames are those of `raise` and `raiseMismatch`. -/
theorem failingCommandHasNoPartialEffect : Obligations.FailingCommandHasNoPartialEffect := by
  intro i s t hexec hfail
  have hend : Ending i s t := exec_eq_next hexec ▸ effect_ending i s
  cases hend with
  | done u => exact absurd (done_err_toNat u) hfail
  | raise e he =>
    obtain ⟨herr, hframe⟩ := raise_verdict s e
    have hcode : e.code.toNat ≠ 6 := mt e.code_toNat_eq_six_iff.1 he
    exact ⟨fun _ => hframe, fun h6 => absurd (herr.symm.trans h6) hcode⟩
  | mismatch hi expected actual =>
    have herr : (s.raiseMismatch expected actual).err.toNat = 6 := congrArg BitVec.toNat (s.raiseMismatch_err _ _)
    exact ⟨fun hne => absurd herr hne, fun _ => ⟨hi, unchanged_raiseMismatch s _ _⟩⟩

end Sys2Proof.Machine
end

/-! ## The decoder, the encoder and the formats (30_encoding.md) -/

section
namespace Sys2Proof

/-! ### Round trips -/

/-- Settles O2: the fields of the word are the command's (`decode_eq_ok_iff`). -/
theorem decodeOfEncodeIsIdentity : Obligations.DecodeOfEncodeIsIdentity := fun i =>
  decode_eq_ok_iff.2 ⟨opField_encode i, argField_encode i⟩

/-- Settles O3: the decoder fixes both fields (`decode_eq_ok_iff`), and a word is its fields (`fields_append`). -/
theorem encodeOfDecodeIsIdentity : Obligations.EncodeOfDecodeIsIdentity := by
  intro w i h
  obtain ⟨hop, harg⟩ := decode_eq_ok_iff.1 h
  rw [encode, ← hop, ← harg, fields_append]

/-! ### Rows selected by a word -/

theorem selectedBy_row_iff (i : Instr) (w : CommandWord) :
    i.row.selectedBy w = true ↔ ∃ j, decode w = .ok j ∧ j.row = i.row := by
  rw [OpcodeRow.selectedBy, beq_iff_eq, and_row_mask_eq_pattern_iff_decode]

theorem opcodeRows_nodup : opcodeRows.Nodup := .of_map _ opcodeRows_mnemonics_nodup

/-- Settles O5: a row is selected when it is the row of the command decoded (`selectedBy_row_iff`), which stands in the
table once. -/
theorem legalWordSelectsExactlyOneRow : Obligations.LegalWordSelectsExactlyOneRow := by
  intro w
  cases hw : decode w with
  | ok i =>
    have hsel : ∀ r ∈ opcodeRows, r.selectedBy w = (r == i.row) := by
      intro r hr
      obtain ⟨j, rfl⟩ := mem_opcodeRows_iff.1 hr
      rw [Bool.eq_iff_iff, selectedBy_row_iff, beq_iff_eq]
      constructor
      · rintro ⟨k, hk, hrow⟩
        rw [hw] at hk
        cases hk
        exact hrow.symm
      · exact fun hrow => ⟨i, hw, hrow.symm⟩
    rw [List.filter_congr hsel, ← List.countP_eq_length_filter]
    exact List.count_eq_one_of_mem opcodeRows_nodup i.row_mem_opcodeRows
  | error e =>
    have hnone : ∀ r ∈ opcodeRows, ¬ r.selectedBy w = true := by
      intro r hr hsel
      obtain ⟨j, rfl⟩ := mem_opcodeRows_iff.1 hr
      obtain ⟨k, hk, -⟩ := (selectedBy_row_iff j w).1 hsel
      rw [hw] at hk
      cases hk
    rw [List.filter_eq_nil_iff.2 hnone, List.length_nil]

/-! ### Formats -/

/-- The must-be-zero bits of each format (R86). -/
def Format.argMask : Format → BitVec 32
  | .n => BitVec.allOnes 32
  | .b => BitVec.allOnes 24 ++ 0#8
  | .w => 0#32

theorem Format.argOk_iff (f : Format) (arg : BitVec 32) : f.argOk arg = true ↔ arg &&& f.argMask = 0#32 := by
  cases f with
  | n => rw [argMask, BitVec.and_allOnes, argOk, beq_iff_eq, BitVec.toNat_eq, BitVec.toNat_zero]
  | b =>
    rw [argMask, and_byteMask_eq_zero_iff, argOk, decide_eq_true_iff]
    constructor
    · intro h
      refine ⟨BitVec.ofNat 8 arg.toNat, BitVec.eq_of_toNat_eq ?_⟩
      rw [zero_append_toNat, BitVec.toNat_ofNat, Nat.mod_eq_of_lt h]
    · rintro ⟨b, rfl⟩
      rw [zero_append_toNat]
      exact b.isLt
  | w => simp [argOk, argMask]

theorem Format.exists_command (f : Format) :
    ∀ n ∈ f.opcodes, ∃ i ∈ commandKinds, i.opcode.toNat = n ∧ i.argMask = f.argMask := by
  cases f <;> decide

theorem wellFormed_iff (c : CommandFields) :
    c.wellFormed = true ↔ ∃ f : Format, c.op.toNat ∈ f.opcodes ∧ c.arg &&& f.argMask = 0#32 := by
  have hall (P : Format → Prop) : (∃ f, P f) ↔ P .n ∨ P .b ∨ P .w := by
    constructor
    · rintro ⟨f, hf⟩
      cases f
      · exact .inl hf
      · exact .inr (.inl hf)
      · exact .inr (.inr hf)
    · rintro (h | h | h) <;> exact ⟨_, h⟩
  rw [hall]
  simp only [CommandFields.wellFormed, List.any_cons, List.any_nil, Bool.or_false, Bool.or_eq_true, Bool.and_eq_true,
    List.contains_iff_mem, Format.argOk_iff]

theorem Instr.exists_format (i : Instr) : ∃ f : Format, i.opcode.toNat ∈ f.opcodes ∧ i.argMask = f.argMask := by
  cases i with
  | ldtag => exact ⟨.w, by simp [opcode, Format.opcodes], rfl⟩
  | crcb | pushp | pushs => exact ⟨.b, by simp [opcode, Format.opcodes], rfl⟩
  | _ => exact ⟨.n, by decide, rfl⟩

/-- Settles O6: a command's fields obey its format (`Instr.exists_format`); conversely the opcode of a format is a command's
(`Format.exists_command`), and each argument the format allows is that of such a command (`Instr.exists_argument_eq`). -/
theorem decoderAcceptsExactlyWellFormedFields : Obligations.DecoderAcceptsExactlyWellFormedFields := by
  intro w
  rw [wellFormed_iff]
  constructor
  · rintro ⟨i, hi⟩
    obtain ⟨hop, harg⟩ := decode_eq_ok_iff.1 hi
    obtain ⟨f, hf, hmask⟩ := i.exists_format
    exact ⟨f, hop ▸ hf, by rw [harg, ← hmask, i.argument_and_argMask]⟩
  · rintro ⟨f, hop, harg⟩
    obtain ⟨i, -, hi, hmask⟩ := f.exists_command _ hop
    obtain ⟨j, -, hj, hjarg⟩ := i.exists_argument_eq (arg := argField w) (hmask ▸ harg)
    exact ⟨j, decode_eq_ok_iff.2 ⟨(BitVec.eq_of_toNat_eq hi).symm.trans hj.symm, hjarg.symm⟩⟩

/-- Settles O1: the decoder evaluated on each word. -/
theorem wordsDecodeAsTabulated : Obligations.WordsDecodeAsTabulated :=
  ⟨rfl, rfl, rfl, rfl, rfl, rfl, rfl, rfl, rfl, rfl, rfl, rfl⟩

end Sys2Proof
end

/-! ## The step and the invariant (00_scope.md R4, 10_state.md R33, 60_exceptions.md) -/

section
namespace Sys2Proof.Machine

/-! ### The next state, by the host's next action -/

section
variable {s : State} {w : CommandWord} {rest : List HostAction}

theorem step_of_nothing (h : s.input = []) : step s = .next s := by
  simp [step, State.nextAction, h]

theorem step_of_reset (h : s.input = .reset :: rest) : step s = .next { s with input := rest }.hostReset := by
  simp [step, State.nextAction, h]

theorem step_of_command (h : s.input = .command w :: rest) : step s = runWord w { s with input := rest } := by
  simp [step, State.nextAction, h]

theorem runWord_of_illegal (h : ∀ i, decode w ≠ .ok i) (s : State) : runWord w s = .next (s.raise .illegalCommand) := by
  cases hw : decode w with
  | ok i => exact absurd hw (h i)
  | error e => rw [runWord, hw, execIllegal]

end

/-- The state a step leads to (R4). -/
def nextState (s : State) : State :=
  match s.input with
  | [] => s
  | .reset :: rest => { s with input := rest }.hostReset
  | .command w :: rest =>
    match decode w with
    | .ok i => effect i { s with input := rest }
    | .error _ => { s with input := rest }.raise .illegalCommand

theorem step_eq (s : State) : step s = .next (nextState s) := by
  obtain ⟨hin, h⟩ | ⟨rest, hin, h⟩ | ⟨w, rest, i, hin, hw, h⟩ | ⟨w, rest, r, hin, hw, h⟩ := step_cases s
  · rw [h, nextState, hin]
  · rw [h, nextState, hin]
  · rw [h, nextState, hin]
    simp only [hw]
  · rw [h, nextState, hin]
    simp only [hw]

/-- Settles O7: the step runs the word presented (`step_of_command`), which runs what it decodes to. -/
theorem stepExecutesPresentedCommand : Obligations.StepExecutesPresentedCommand := by
  intro s w rest i hin hw
  rw [step_of_command hin, runWord, hw]

/-- Settles O8: a word that is not well-formed decodes to no command (`decoderAcceptsExactlyWellFormedFields`), and then the
step only raises (`runWord_of_illegal`, `raise_verdict`). -/
theorem illegalWordRaisesOnlyIllegalCommand : Obligations.IllegalWordRaisesOnlyIllegalCommand := by
  intro s w rest hin hbad
  have hillegal : ∀ i, decode w ≠ .ok i := fun i hi =>
    absurd ((decoderAcceptsExactlyWellFormedFields w).1 ⟨i, hi⟩) (Bool.eq_false_iff.1 hbad)
  exact ⟨_, (step_of_command hin).trans (runWord_of_illegal hillegal _), raise_verdict _ .illegalCommand⟩

/-- Settles O9: see `step_of_nothing`. -/
theorem nothingHappensWithoutHostAction : Obligations.NothingHappensWithoutHostAction := fun _ h =>
  step_of_nothing h

/-- Settles O10: the step is `State.hostReset` (`step_of_reset`), whose buffers hold no byte. -/
theorem hostResetRestoresResetState : Obligations.HostResetRestoresResetState := by
  intro s rest hin
  have hpay (t : State) (i : Nat) : t.hostReset.samplePay i = none := by
    rw [State.samplePay, State.hostReset_payBytes, List.getElem?_nil]
  have hsb (t : State) (i : Nat) : t.hostReset.sampleSb i = none := by
    rw [State.sampleSb, State.hostReset_sbBytes, List.getElem?_nil]
  exact ⟨_, step_of_reset hin, rfl, rfl, hpay _, rfl, hsb _, rfl, rfl, rfl, rfl, rfl, rfl, rfl⟩

/-- Settles O14: `step_eq` and `exec_eq` name the successor. -/
theorem everyStepHasASuccessor : Obligations.EveryStepHasASuccessor :=
  ⟨fun s => ⟨_, step_eq s⟩, fun i s => ⟨_, exec_eq i s⟩⟩

/-! ### The invariant -/

theorem invariant_resetOf (p : Params) : Invariant (State.resetOf p) where
  len_eq := rfl
  pay_le := Nat.zero_le _
  slen_eq := rfl
  sb_le := Nat.zero_le _
  reserved_zero := (by decide : (0#32).extractLsb' 4 28 = 0#28)
  err_legal := (by decide : legalErr ((0#32).extractLsb' 0 4) = true)

/-- Settles O12: `State.reset` is the reset state of one value of the parameters. -/
theorem resetSatisfiesInvariant : Obligations.ResetSatisfiesInvariant :=
  ⟨invariant_resetOf, invariant_resetOf resetParams⟩

theorem Invariant.hostReset (s : State) : Invariant s.hostReset :=
  (invariant_resetOf s.params).of_agree rfl rfl rfl rfl rfl rfl

theorem Invariant.raiseMismatch {s : State} (h : Invariant s) (e a : Word) : Invariant (s.raiseMismatch e a) :=
  (h.of_agree (t := { s with exp := e, act := a }) rfl rfl rfl rfl rfl rfl).raise _

theorem Invariant.withTag {s : State} (h : Invariant s) (t : Bytes4) : Invariant { s with tag := t } :=
  h.of_agree rfl rfl rfl rfl rfl rfl

theorem Invariant.withCrc {s : State} (h : Invariant s) (c : Word) : Invariant { s with crc := c } :=
  h.of_agree rfl rfl rfl rfl rfl rfl

theorem Invariant.setRes {s : State} (h : Invariant s) (v : Word) : Invariant (s.setRes v) :=
  h.of_agree rfl rfl rfl rfl rfl rfl

/-- A command that tests one condition and raises in the state it found. -/
theorem Invariant.check {s u : State} (h : Invariant s) (fails : Prop) [Decidable fails] (e : ErrorKind)
    (hu : ¬ fails → Invariant u) : Invariant (if fails then s.raise e else u) := by
  split
  · exact h.raise e
  · exact hu ‹_›

theorem Invariant.tagtxtEffect {s : State} (h : Invariant s) : Invariant (tagtxtEffect s) := by
  obtain hs | hs | ⟨t, -, -, hs⟩ := tagtxtEffect_cases s <;> rw [hs]
  · exact h.raise _
  · exact h.raise _
  · exact (h.withTag t).done

/-- The record that ENCODE writes fits in SB, since SB_CAP is PAY_CAP + 12 (R146). -/
theorem Invariant.encodeRecord_length_le {s : State} (h : Invariant s) :
    (encodeRecord s.tag s.payBytes).length ≤ s.params.sbCap := by
  have := h.pay_le
  rw [encodeRecord_length, h.payBytes_eq, Params.sbCap]
  omega

/-- The payload that DECODE finds in SB fits in PAY, since SB_CAP is PAY_CAP + 12 (R147). -/
theorem Invariant.decodeEffect {s : State} (h : Invariant s) : Invariant (effect .decode s) := by
  obtain ⟨e, -, hs⟩ | ⟨e, a, -, hs⟩ | ⟨t, p, hr, hs⟩ := deliver_cases (decodeRecord s.sbBytes) s <;> rw [effect, hs]
  · exact h.raise e
  · exact h.raiseMismatch e a
  · have hlen := decodeRecord_chunk_length hr
    have hcap := h.sb_le
    rw [h.sbBytes_eq] at hlen
    rw [Params.sbCap] at hcap
    have hp : p.length ≤ s.params.payCap.val := by omega
    exact ((h.withTag t).writePay hp).done

theorem Invariant.effect {s : State} (h : Invariant s) (i : Instr) : Invariant (effect i s) := by
  cases i with
  | tagtxt => exact h.tagtxtEffect
  | decode => exact h.decodeEffect
  | encode => exact (h.writeSb h.encodeRecord_length_le).done
  | nop => exact h.done
  | ldtag arg => exact (h.withTag _).done
  | crcinit | crcb => exact (h.withCrc _).done
  | qvalid | qcrit | qpub | qrsv | qsafe | qlen | csum | crcfin => exact (h.setRes _).done
  | tagstr | paystr => exact h.check _ _ fun _ => h.done
  | clrp => exact (h.writePay (Nat.zero_le _)).done
  | clrs => exact (h.writeSb (Nat.zero_le _)).done
  | pushp b => exact h.check _ _ fun hroom => (h.appendPay b (Nat.not_le.1 hroom)).done
  | pushs b => exact h.check _ _ fun hroom => (h.appendSb b (Nat.not_le.1 hroom)).done

/-- Settles O13: each of the things a step can do (`step_cases`) keeps the invariant, which does not speak of the input. -/
theorem everyStepKeepsInvariant : Obligations.EveryStepKeepsInvariant := by
  intro s t hinv hstep
  have hinput (rest : List HostAction) : Invariant { s with input := rest } :=
    hinv.of_agree rfl rfl rfl rfl rfl rfl
  obtain ⟨-, h⟩ | ⟨rest, -, h⟩ | ⟨w, rest, i, -, -, h⟩ | ⟨w, rest, r, -, -, h⟩ := step_cases s
  all_goals
    rw [h] at hstep
    cases hstep
  · exact hinv
  · exact .hostReset _
  · exact (hinput rest).effect i
  · exact (hinput rest).raise _

/-- Settles O22: under the invariant the valid bytes are as many as the fill count says. -/
theorem onlyValidBytesAreSampled : Obligations.OnlyValidBytesAreSampled := by
  intro s hinv i
  have hsampled (x : List Byte) : (∃ b, x[i]? = some b) ↔ i < x.length := by
    rw [← Option.isSome_iff_exists, isSome_getElem?]
  rw [State.samplePay, State.sampleSb, hinv.payBytes_eq, hinv.sbBytes_eq, hinv.len_eq, hinv.slen_eq]
  exact ⟨hsampled s.pay, hsampled s.sb⟩

/-! ### Several instances (R249) -/

/-- A step of the `k`-th machine is the step of that one state, in place. -/
theorem stepInstance_eq (k : Nat) (m : Instances) : stepInstance k m = .next (m.modify k nextState) := by
  cases hk : m[k]? with
  | none => rw [stepInstance_of_absent hk, List.modify_eq_self (List.getElem?_eq_none_iff.1 hk)]
  | some s => rw [stepInstance_of_step hk (step_eq s), List.modify_eq_set_getElem?, hk]; rfl

/-- Settles O21: stepping is modifying one place of the list (`stepInstance_eq`), and two places can be modified in either
order. -/
theorem instancesAreIndependent : Obligations.InstancesAreIndependent := by
  intro m j k hjk
  refine ⟨_, _, _, stepInstance_eq j m, stepInstance_eq k m, stepInstance_eq k _, ?_, fun s hs => ?_, fun n hn => ?_⟩
  · rw [stepInstance_eq, List.modify_modify_ne _ _ _ hjk]
  · exact ⟨nextState s, step_eq s, by rw [List.getElem?_modify_eq, hs]; rfl⟩
  · exact List.getElem?_modify_ne _ _ hn.symm

end Sys2Proof.Machine
end

/-! ## What a command reads and what it writes (10_state.md R20, R30, R31, 60_exceptions.md R231, R244) -/

section
namespace Sys2Proof.Machine

/-! ### A command as one update, chosen from what it reads -/

/-- What a command does to the block once its operands are read and its tests are made. -/
inductive Update where
  | raise (e : ErrorKind)
  | mismatch (expected actual : Word)
  | nothing
  | tag (t : Bytes4)
  | res (v : Word)
  | crc (c : Word)
  | pay (p : List Byte) (n : BitVec 32)
  | sb (x : List Byte) (n : BitVec 33)
  | chunk (t : Bytes4) (p : List Byte)

/-- The update carried out. -/
def Update.apply : Update → State → State
  | .raise e, s => s.raise e
  | .mismatch e a, s => s.raiseMismatch e a
  | .nothing, s => s.done
  | .tag t, s => State.done { s with tag := t }
  | .res v, s => (s.setRes v).done
  | .crc c, s => State.done { s with crc := c }
  | .pay p n, s => State.done { s with pay := p, len := n }
  | .sb x n, s => State.done { s with sb := x, slen := n }
  | .chunk t p, s => (State.writePay p { s with tag := t }).done

/-- The letters test of TAGTXT (R115). -/
def loadUpdate (t : Bytes4) : Update :=
  if allLetters t = false then .raise .invalidCharacter else .tag t

/-- TAGTXT's tests in their order (R115). -/
def tagtxtUpdate (n : BitVec 33) (x : List Byte) : Update :=
  if n ≠ 4#33 then .raise .wrongLength
  else match x with
    | [b0, b1, b2, b3] => loadUpdate ⟨b0, b1, b2, b3⟩
    | _ => .raise .wrongLength

/-- DECODE's update by the result of `decode` (R147). -/
def deliverUpdate : DecodeResult → Update
  | .tooShort => .raise .tooShort
  | .invalidTag => .raise .invalidTag
  | .truncatedPayload => .raise .truncatedPayload
  | .checksumMismatch e a => .mismatch e a
  | .chunk t p => .chunk t p

/-- The update of each command; `effect_eq` says that it is the command's meaning. -/
def update : Instr → State → Update
  | .nop, _ => .nothing
  | .ldtag arg, _ => .tag (bytesBe32 arg)
  | .tagtxt, s => tagtxtUpdate s.slen s.sbBytes
  | .qvalid, s => .res (boolWord (tagValid s.tag))
  | .qcrit, s => .res (boolWord (critical s.tag))
  | .qpub, s => .res (boolWord (isPublic s.tag))
  | .qrsv, s => .res (boolWord (reservedOk s.tag))
  | .qsafe, s => .res (boolWord (safeToCopy s.tag))
  | .tagstr, s => if tagRenderable s.params.tagstrMultibyte s.tag = false then .raise .tagNotText else .nothing
  | .qlen, s => .res s.len
  | .csum, s => .res (chunkCrc s.tag s.payBytes)
  | .encode, s => .sb (encodeRecord s.tag s.payBytes) (BitVec.ofNat 33 (encodeRecord s.tag s.payBytes).length)
  | .decode, s => deliverUpdate (decodeRecord s.sbBytes)
  | .paystr, s => if utf8Valid s.payBytes = false then .raise .notUtf8 else .nothing
  | .crcinit, _ => .crc crcInit
  | .crcb b, s => .crc (crcStep s.crc b)
  | .crcfin, s => .res (s.crc ^^^ crcXorOut)
  | .clrp, _ => .pay [] 0#32
  | .pushp b, s => if s.params.payCap.val ≤ s.len.toNat then .raise .capacity else .pay (s.payBytes ++ [b]) (s.len + 1#32)
  | .clrs, _ => .sb [] 0#33
  | .pushs b, s => if s.params.sbCap ≤ s.slen.toNat then .raise .capacity else .sb (s.sbBytes ++ [b]) (s.slen + 1#33)

theorem loadText_eq (t : Bytes4) (s : State) : loadText t s = (loadUpdate t).apply s := by
  rw [loadText, loadUpdate, apply_ite (Update.apply · s)]
  rfl

theorem tagtxtEffect_eq (s : State) : tagtxtEffect s = (tagtxtUpdate s.slen s.sbBytes).apply s := by
  unfold tagtxtEffect tagtxtUpdate
  split_ifs
  · rfl
  · match s.sbBytes with
    | [b0, b1, b2, b3] => exact loadText_eq ⟨b0, b1, b2, b3⟩ s
    | [] | [_] | [_, _] | [_, _, _] | _ :: _ :: _ :: _ :: _ :: _ => rfl

theorem deliver_eq (r : DecodeResult) (s : State) : deliver r s = (deliverUpdate r).apply s := by
  cases r <;> rfl

theorem effect_eq (i : Instr) (s : State) : effect i s = (update i s).apply s := by
  cases i with
  | tagtxt => exact tagtxtEffect_eq s
  | decode => exact deliver_eq _ s
  | tagstr | paystr | pushp | pushs => rw [update, apply_ite (Update.apply · s)]; rfl
  | _ => rfl

/-- What TAGTXT's tests can lead to. -/
theorem tagtxtUpdate_cases (n : BitVec 33) (x : List Byte) :
    tagtxtUpdate n x = .raise .wrongLength ∨ tagtxtUpdate n x = .raise .invalidCharacter ∨
      ∃ t, tagtxtUpdate n x = .tag t := by
  unfold tagtxtUpdate loadUpdate
  split
  · exact .inl rfl
  · split
    · split
      · exact .inr (.inl rfl)
      · exact .inr (.inr ⟨_, rfl⟩)
    · exact .inl rfl

/-! ### ERR (R231) -/

/-- The code an update leaves in ERR. -/
def Update.code : Update → Nat
  | .raise e => e.code.toNat
  | .mismatch _ _ => 6
  | .nothing | .tag _ | .res _ | .crc _ | .pay _ _ | .sb _ _ | .chunk _ _ => 0

theorem Update.apply_err (u : Update) (s : State) : (u.apply s).err.toNat = u.code := by
  cases u with
  | raise e => exact congrArg BitVec.toNat (s.raise_err e)
  | mismatch e a => exact congrArg BitVec.toNat (s.raiseMismatch_err e a)
  | nothing | tag | res | crc | pay | sb | chunk => exact done_err_toNat _

theorem update_code_mem (i : Instr) (s : State) : (update i s).code ∈ possibleErr i := by
  cases i with
  | tagtxt =>
    obtain h | h | ⟨t, h⟩ := tagtxtUpdate_cases s.slen s.sbBytes <;>
      simp [update, h, Update.code, ErrorKind.code, possibleErr]
  | decode =>
    rw [update]
    cases decodeRecord s.sbBytes <;> simp [deliverUpdate, Update.code, ErrorKind.code, possibleErr]
  | tagstr | paystr | pushp | pushs =>
    rw [update]
    split <;> simp [Update.code, ErrorKind.code, possibleErr]
  | _ => exact List.mem_singleton.2 rfl

/-- Settles O17: ERR is the code of the update (`Update.apply_err`), one of those listed (`update_code_mem`). -/
theorem everyCommandWritesItsOwnErrorCodes : Obligations.EveryCommandWritesItsOwnErrorCodes := by
  intro i s t h
  rw [exec_eq_next h, effect_eq, Update.apply_err]
  exact update_code_mem i s

/-! ### The components written (R20) -/

/-- The components an update writes. -/
def Update.written : Update → List Component
  | .raise _ | .nothing => [.status]
  | .mismatch _ _ => [.exp, .act, .status]
  | .tag _ => [.tag, .status]
  | .res _ => [.res, .status]
  | .crc _ => [.crc, .status]
  | .pay _ _ => [.len, .pay, .status]
  | .sb _ _ => [.slen, .sb, .status]
  | .chunk _ _ => [.tag, .len, .pay, .status]

theorem unchanged_pay (s : State) (p : List Byte) (n : BitVec 32) :
    UnchangedExcept [.len, .pay] s { s with pay := p, len := n } := by
  refine ⟨rfl, rfl, rfl, fun k hk => ?_⟩
  cases k <;> first | exact rfl | (intro i; exact rfl) | simp at hk

theorem unchanged_sb (s : State) (x : List Byte) (n : BitVec 33) :
    UnchangedExcept [.slen, .sb] s { s with sb := x, slen := n } := by
  refine ⟨rfl, rfl, rfl, fun k hk => ?_⟩
  cases k <;> first | exact rfl | (intro i; exact rfl) | simp at hk

theorem Update.apply_frame (u : Update) (s : State) : UnchangedExcept u.written s (u.apply s) := by
  cases u with
  | raise e => exact unchanged_raise s e
  | mismatch e a => exact unchanged_raiseMismatch s e a
  | nothing => exact unchanged_done s
  | tag t => exact unchanged_tag_done s t
  | res v => exact (unchanged_setRes s v).trans (unchanged_done _)
  | crc c => exact (unchanged_crc s c).trans (unchanged_done _)
  | pay p n => exact (unchanged_pay s p n).trans (unchanged_done _)
  | sb x n => exact (unchanged_sb s x n).trans (unchanged_done _)
  | chunk t p => exact unchanged_deliver_chunk s t p

theorem mnemonic_mem_writers_status (i : Instr) : i.mnemonic ∈ writers .status :=
  List.mem_map.2 ⟨i.row, i.row_mem_opcodeRows, rfl⟩

/-- R20's table has, for each command, every component its updates write; STATUS is every command's. -/
theorem update_written (i : Instr) (s : State) : ∀ c ∈ (update i s).written, c = .status ∨ i.mnemonic ∈ writers c := by
  cases i with
  | tagtxt =>
    obtain h | h | ⟨t, h⟩ := tagtxtUpdate_cases s.slen s.sbBytes <;>
      simp [update, h, Update.written, Instr.mnemonic, writers]
  | decode =>
    rw [update]
    cases decodeRecord s.sbBytes <;> simp [deliverUpdate, Update.written, Instr.mnemonic, writers]
  | tagstr | paystr | pushp | pushs =>
    rw [update]
    split <;> simp [Update.written, Instr.mnemonic, writers]
  | _ => simp [update, Update.written, Instr.mnemonic, writers]

/-- Settles O15: the frame of a command is that of its update (`Update.apply_frame`), within R20's table
(`update_written`). -/
theorem onlyListedCommandsWriteEachComponent : Obligations.OnlyListedCommandsWriteEachComponent := by
  intro i s t h
  obtain ⟨hparams, hinput, hreserved, hframe⟩ := (update i s).apply_frame s
  rw [exec_eq_next h, effect_eq]
  refine ⟨hparams, hinput, hreserved, fun c hc => hframe c fun hw => ?_⟩
  obtain rfl | hlisted := update_written i s c hw
  · exact hc (mnemonic_mem_writers_status i)
  · exact hc hlisted

/-! ### The components read (R30, R31, R191) -/

/-- Two states hold the same in every component a command can read (R31). -/
def SameReads (s s' : State) : Prop :=
  s'.params = s.params ∧ s'.tag = s.tag ∧ s'.len = s.len ∧ s'.pay = s.pay ∧ s'.slen = s.slen ∧ s'.sb = s.sb ∧
    s'.crc = s.crc

theorem update_congr {s s' : State} (h : SameReads s s') (i : Instr) : update i s' = update i s := by
  obtain ⟨⟨tag, len, pay, slen, sb, crc, res, status, exp, act⟩, params, input⟩ := s'
  obtain ⟨hparams, htag, hlen, hpay, hslen, hsb, hcrc⟩ := h
  dsimp only at hparams htag hlen hpay hslen hsb hcrc
  subst hparams htag hlen hpay hslen hsb hcrc
  cases i <;> rfl

/-- An update that raises, done twice, is done once. -/
theorem Update.apply_apply_of_code_ne_zero {u : Update} (h : u.code ≠ 0) (s : State) :
    u.apply (u.apply s) = u.apply s ∧ SameReads s (u.apply s) := by
  cases u with
  | raise e => exact ⟨s.setErr_setErr _ _, rfl, rfl, rfl, rfl, rfl, rfl, rfl⟩
  | mismatch e a => exact ⟨State.setErr_setErr { s with exp := e, act := a } _ _, rfl, rfl, rfl, rfl, rfl, rfl, rfl⟩
  | nothing | tag | res | crc | pay | sb | chunk => exact absurd rfl h

/-- Settles O18: a raising update changes nothing that a command reads, so the same update is chosen again
(`update_congr`). -/
theorem repeatedFailureGivesSameError : Obligations.RepeatedFailureGivesSameError := by
  intro i s t hexec hfail
  rw [exec_eq_next hexec, effect_eq] at hfail ⊢
  rw [Update.apply_err] at hfail
  obtain ⟨hagain, hreads⟩ := (update i s).apply_apply_of_code_ne_zero hfail s
  rw [exec_eq, effect_eq, update_congr hreads, hagain]

/-- Settles O19: the two states have the same update (`update_congr`), and an update writes given values and does not read. -/
theorem noCommandReadsResultRegisters : Obligations.NoCommandReadsResultRegisters := by
  intro i s s' t t' hexec hexec' hparams htag hlen hpay hslen hsb hcrc
  have hu : update i s' = update i s := update_congr ⟨hparams, htag, hlen, hpay, hslen, hsb, hcrc⟩ i
  rw [exec_eq_next hexec, exec_eq_next hexec', effect_eq, effect_eq, hu]
  have herr : ((update i s).apply s').err = ((update i s).apply s).err :=
    BitVec.eq_of_toNat_eq (by rw [Update.apply_err, Update.apply_err])
  generalize update i s = u at herr ⊢
  cases u <;> simp [Update.apply, *]

/-- An update that does not write CRC does the same whatever CRC holds, and keeps it. -/
theorem Update.apply_withCrc {u : Update} (h : .crc ∉ u.written) (s : State) (c : Word) :
    (u.apply s).crc = s.crc ∧ u.apply { s with crc := c } = { u.apply s with crc := c } := by
  cases u with
  | crc => exact absurd (by simp [written]) h
  | _ => exact ⟨rfl, rfl⟩

theorem update_withCrc {i : Instr} (h : i.mnemonic ∉ ["CRCINIT", "CRCB", "CRCFIN"]) (s : State) (c : Word) :
    update i { s with crc := c } = update i s := by
  cases i with
  | crcinit | crcb | crcfin => simp [Instr.mnemonic] at h
  | _ => rfl

/-- Settles O20: outside the family the update is chosen without CRC (`update_withCrc`) and does not write it
(`update_written`). -/
theorem otherFamiliesIgnoreCrcRegister : Obligations.OtherFamiliesIgnoreCrcRegister := by
  intro i s t c hi hexec
  have hwrites : Component.crc ∉ (update i s).written := fun hw => by
    have := update_written i s _ hw
    simp_all [writers]
  rw [exec_eq_next hexec, exec_eq, effect_eq, effect_eq, update_withCrc hi s c]
  obtain ⟨hkeep, happly⟩ := Update.apply_withCrc hwrites s c
  exact ⟨hkeep, congrArg _ happly⟩

end Sys2Proof.Machine
end

/-! ## The CRC-32 as a function of a byte sequence (42_crc32.md) -/

section
namespace Sys2Proof.Machine

/-- Settles O29: the literals are the loop's values (`crcTable_eq`), and the table form is the step
(`crcStepByTable_eq`). -/
theorem crcTableFormEqualsBitwiseForm : Obligations.CrcTableFormEqualsBitwiseForm := by
  refine ⟨?_, fun i hi => crcTable_getElem? hi, crcStepByTable_eq⟩
  rw [crcTable_eq, List.length_map, List.length_range]

/-! ### Linearity and bijectivity (R190 (a), (b)) -/

/-- Settles O32: both the byte's entry and the loop (`crcLoop_xor`) are linear. -/
theorem crcStepIsLinear : Obligations.CrcStepIsLinear := by
  intro c c' b b'
  have hentry : (c ^^^ b.setWidth 32) ^^^ (c' ^^^ b'.setWidth 32) = (c ^^^ c') ^^^ (b ^^^ b').setWidth 32 := by
    rw [BitVec.setWidth_xor]
    ac_rfl
  rw [crcStep, crcStep, crcStep, ← crcLoop_xor, hentry]

/-- Only 0 is shifted to 0: after a shift without the polynomial bit 31 is 0, and the polynomial's bit 31 is 1. -/
theorem eq_zero_of_crcShift_eq_zero {c : Word} (h : crcShift c = 0#32) : c = 0#32 := by
  have hbit (i : Nat) : (crcShift c).getLsbD i = false := by rw [h, BitVec.getLsbD_zero]
  have hlow : c.getLsbD 0 = false := by
    by_contra hone
    have htop := hbit 31
    rw [crcShift, if_pos (by simpa using hone)] at htop
    simp [crcPoly] at htop
  refine BitVec.eq_of_getLsbD_eq fun i hi => ?_
  rw [BitVec.getLsbD_zero]
  cases i with
  | zero => exact hlow
  | succ i =>
    have hi' := hbit i
    rwa [crcShift, if_neg (Bool.eq_false_iff.1 hlow), BitVec.getLsbD_ushiftRight, Nat.add_comm] at hi'

theorem crcShift_injective : Function.Injective crcShift := fun a b h => by
  have hdiff : crcShift (a ^^^ b) = 0#32 := by rw [crcShift_xor, h, BitVec.xor_self]
  exact BitVec.xor_eq_zero_iff.1 (eq_zero_of_crcShift_eq_zero hdiff)

theorem crcLoop_injective (n : Nat) : Function.Injective (crcLoop n) := by
  induction n with
  | zero => exact fun _ _ h => h
  | succ n ih => exact ih.comp crcShift_injective

theorem crcStep_injective_register (b : Byte) : Function.Injective fun c => crcStep c b := fun _ _ h =>
  (BitVec.xor_left_inj _).1 (crcLoop_injective 8 h)

theorem crcStep_injective_byte (c : Word) : Function.Injective (crcStep c) := fun b b' h => by
  have hentry : b.setWidth 32 = b'.setWidth 32 := (BitVec.xor_right_inj _).1 (crcLoop_injective 8 h)
  simpa using congrArg (BitVec.setWidth 8) hentry

/-- Settles O31: the step is injective (`crcStep_injective_register`), and the register has finitely many values. -/
theorem crcStepIsBijective : Obligations.CrcStepIsBijective := fun b =>
  Finite.injective_iff_bijective.1 (crcStep_injective_register b)

theorem crcUpdate_injective (s : List Byte) : Function.Injective fun c => crcUpdate c s := by
  induction s with
  | nil => exact fun _ _ h => h
  | cons b s ih =>
    intro c c' h
    simp only [crcUpdate_cons] at h
    exact crcStep_injective_register b (ih h)

/-- Settles O33: the changed byte makes two registers differ (`crcStep_injective_byte`), and the bytes after it keep them
different (`crcUpdate_injective`). -/
theorem oneChangedByteChangesChecksum : Obligations.OneChangedByteChangesChecksum := by
  intro p q b b' hne h
  have hupdate : crcUpdate crcInit (p ++ b :: q) = crcUpdate crcInit (p ++ b' :: q) := (BitVec.xor_left_inj _).1 h
  simp only [crcUpdate_append, crcUpdate_cons] at hupdate
  exact hne (crcStep_injective_byte _ (crcUpdate_injective q hupdate))

/-! ### The residue (R190 (e)) -/

theorem crcLoop_add (m n : Nat) (c : Word) : crcLoop (m + n) c = crcLoop n (crcLoop m c) := by
  induction m generalizing c with
  | zero => rw [Nat.zero_add, crcLoop]
  | succ m ih => rw [Nat.succ_add, crcLoop, crcLoop, ih]

/-- A byte that enters after `n` iterations might as well have entered before them, `n` bits higher up. -/
theorem crcStep_crcLoop {n : Nat} (hn : n ≤ 24) (c : Word) (b : Byte) :
    crcStep (crcLoop n c) b = crcLoop (n + 8) (c ^^^ b.setWidth 32 <<< n) := by
  have hlow : ∀ i < n, (b.setWidth 32 <<< n).getLsbD i = false := fun i hi => by simp [hi]
  have hback : (b.setWidth 32 <<< n) >>> n = b.setWidth 32 := by
    refine BitVec.eq_of_getLsbD_eq fun i hi => ?_
    by_cases hi8 : i < 8
    · simp [hi8, show n + i < 32 by omega, hi]
    · simp [BitVec.getLsbD_of_ge b i (by omega)]
  rw [crcStep, crcLoop_add, crcLoop_xor n, crcLoop_eq_ushiftRight hlow, hback]

/-- A word is its four bytes, each at its place. -/
theorem eq_xor_bytes (v : Word) :
    v = (v.extractLsb' 0 8).setWidth 32 <<< 0 ^^^ (v.extractLsb' 8 8).setWidth 32 <<< 8 ^^^
      (v.extractLsb' 16 8).setWidth 32 <<< 16 ^^^ (v.extractLsb' 24 8).setWidth 32 <<< 24 := by
  refine BitVec.eq_of_getLsbD_eq fun i hi => ?_
  obtain h | h | h | h : i < 8 ∨ (8 ≤ i ∧ i < 16) ∨ (16 ≤ i ∧ i < 24) ∨ 24 ≤ i := by omega
  · simp [h, hi, show i < 16 by omega, show i < 24 by omega]
  · simp [h, hi, show ¬ i < 8 by omega, show i - 8 < 8 by omega, show i < 24 by omega]
  · simp [h, hi, show ¬ i < 8 by omega, show ¬ i < 16 by omega, show ¬ i - 8 < 8 by omega, show i - 16 < 8 by omega]
  · simp [h, hi, show ¬ i < 8 by omega, show ¬ i < 16 by omega, show ¬ i < 24 by omega, show ¬ i - 8 < 8 by omega,
      show ¬ i - 16 < 8 by omega, show i - 24 < 8 by omega]

/-- Four bytes, the least significant first, act as one word that enters at once. -/
theorem crcUpdate_word (c v : Word) : crcUpdate c (bytesBe32 v).toList.reverse = crcLoop 32 (c ^^^ v) := by
  have hbytes : (bytesBe32 v).toList.reverse =
      [v.extractLsb' 0 8, v.extractLsb' 8 8, v.extractLsb' 16 8, v.extractLsb' 24 8] := rfl
  have hstart : c = crcLoop 0 c := rfl
  rw [hbytes, hstart]
  simp only [crcUpdate_cons, crcUpdate_nil]
  rw [crcStep_crcLoop (by decide), crcStep_crcLoop (by decide), crcStep_crcLoop (by decide),
    crcStep_crcLoop (by decide)]
  conv_rhs => rw [eq_xor_bytes v]
  simp only [BitVec.xor_assoc, crcLoop]

/-- Settles O34: the checksum cancels the register it came from, and all ones are left to run through the loop
(`crcUpdate_word`). -/
theorem checksumAppendedLeavesResidue : Obligations.ChecksumAppendedLeavesResidue := by
  intro s
  have hcancel : crcUpdate crcInit s ^^^ crc32 s = crcXorOut := by
    rw [crc32, ← BitVec.xor_assoc, BitVec.xor_self, BitVec.zero_xor]
  rw [crcUpdate_append, crcUpdate_word, ← crcInit, hcancel]
  decide +kernel

end Sys2Proof.Machine
end

/-! ## The CRC-32 as a polynomial remainder (42_crc32.md R185) -/

section
namespace Sys2Proof.Machine
open Polynomial

/-- The register as a polynomial over GF(2), bit 0 at `x^31` (R185). -/
noncomputable def crcPolynomial (c : Word) : (ZMod 2)[X] :=
  ∑ i ∈ Finset.range 32, if c.getLsbD i then X ^ (31 - i) else 0

/-- One byte as a polynomial, bit 0 at `x^7` (R185). -/
noncomputable def bytePolynomial (b : Byte) : (ZMod 2)[X] :=
  ∑ j ∈ Finset.range 8, if b.getLsbD j then X ^ (7 - j) else 0

/-- The bits of a sequence as a polynomial: the first byte's bit 0 at the highest power (R185). -/
noncomputable def messagePolynomial (s : List Byte) : (ZMod 2)[X] :=
  ∑ k ∈ Finset.range s.length, ∑ j ∈ Finset.range 8,
    if (s.getD k 0#8).getLsbD j then X ^ (8 * s.length - 1 - (8 * k + j)) else 0

/-- The generator polynomial G (R180). -/
noncomputable def crcGenerator : (ZMod 2)[X] :=
  X ^ 32 + X ^ 26 + X ^ 23 + X ^ 22 + X ^ 16 + X ^ 12 + X ^ 11 + X ^ 10 + X ^ 8 + X ^ 7 + X ^ 5 + X ^ 4 + X ^ 2 + X + 1

theorem messagePolynomial_cons (b : Byte) (s : List Byte) :
    messagePolynomial (b :: s) = bytePolynomial b * X ^ (8 * s.length) + messagePolynomial s := by
  rw [messagePolynomial, List.length_cons, Finset.sum_range_succ', add_comm, bytePolynomial, Finset.sum_mul]
  refine congrArg₂ HAdd.hAdd ?_ ?_
  · refine Finset.sum_congr rfl fun j hj => ?_
    have hj8 : j < 8 := Finset.mem_range.1 hj
    have hexp : 8 * (s.length + 1) - 1 - (8 * 0 + j) = (7 - j) + 8 * s.length := by omega
    rw [ite_mul, zero_mul, ← pow_add, hexp, List.getD_cons_zero]
  · refine Finset.sum_congr rfl fun k _ => Finset.sum_congr rfl fun j _ => ?_
    have hexp : 8 * (s.length + 1) - 1 - (8 * (k + 1) + j) = 8 * s.length - 1 - (8 * k + j) := by omega
    rw [hexp, List.getD_cons_succ]

/-- Exclusive-or is the sum over GF(2). -/
theorem crcPolynomial_xor (c d : Word) : crcPolynomial (c ^^^ d) = crcPolynomial c + crcPolynomial d := by
  rw [crcPolynomial, crcPolynomial, crcPolynomial, ← Finset.sum_add_distrib]
  refine Finset.sum_congr rfl fun i _ => ?_
  rw [BitVec.getLsbD_xor]
  cases c.getLsbD i <;> cases d.getLsbD i <;> simp [CharTwo.add_self_eq_zero]

theorem crcGenerator_eq : crcGenerator = X ^ 32 + crcPolynomial crcPoly := by
  simp [crcGenerator, crcPolynomial, crcPoly, Finset.sum_range_succ]
  ring

theorem crcPolynomial_degree_lt (c : Word) : (crcPolynomial c).degree < 32 := by
  have hmem : crcPolynomial c ∈ degreeLT (ZMod 2) 32 := Submodule.sum_mem _ fun i _ => by
    split
    · rw [mem_degreeLT, degree_X_pow]
      exact_mod_cast (by omega : 31 - i < 32)
    · exact zero_mem _
  exact mem_degreeLT.1 hmem

theorem crcGenerator_monic : crcGenerator.Monic :=
  crcGenerator_eq ▸ monic_X_pow_add (crcPolynomial_degree_lt crcPoly)

theorem crcGenerator_degree : crcGenerator.degree = 32 := by
  have hlt : (crcPolynomial crcPoly).degree < (X ^ 32 : (ZMod 2)[X]).degree := by
    rw [degree_X_pow]
    exact crcPolynomial_degree_lt crcPoly
  rw [crcGenerator_eq, degree_add_eq_left_of_degree_lt hlt, degree_X_pow]
  rfl

/-! ### The register modulo the generator -/

/-- A shift divides by `x`: what it drops is bit 0, the coefficient of `x^31`. -/
theorem X_mul_crcPolynomial (c : Word) :
    X * crcPolynomial c = (if c.getLsbD 0 then X ^ 32 else 0) + crcPolynomial (c >>> 1) := by
  have htop : (c >>> 1).getLsbD 31 = false := by simp
  have hshift : crcPolynomial (c >>> 1) =
      ∑ i ∈ Finset.range 31, if (c >>> 1).getLsbD i then X ^ (31 - i) else 0 := by
    rw [crcPolynomial, Finset.sum_range_succ, htop, if_neg Bool.false_ne_true, add_zero]
  rw [hshift, crcPolynomial, Finset.sum_range_succ', mul_add, Finset.mul_sum, add_comm, mul_ite, mul_zero, ← pow_succ']
  refine congrArg _ (Finset.sum_congr rfl fun i hi => ?_)
  have hi31 : i < 31 := Finset.mem_range.1 hi
  have hexp : 31 - (i + 1) + 1 = 31 - i := by omega
  rw [mul_ite, mul_zero, ← pow_succ', hexp, BitVec.getLsbD_ushiftRight, Nat.add_comm]

/-- One iteration multiplies by `x` and takes the generator off when `x^32` appears (R181). -/
theorem X_mul_crcPolynomial_eq_crcShift (c : Word) :
    X * crcPolynomial c = crcPolynomial (crcShift c) + if c.getLsbD 0 then crcGenerator else 0 := by
  rw [X_mul_crcPolynomial, crcShift]
  split
  · rw [crcPolynomial_xor, crcGenerator_eq]
    linear_combination -CharTwo.add_self_eq_zero (crcPolynomial crcPoly)
  · rw [zero_add, add_zero]

theorem mk_crcPolynomial_crcLoop (n : Nat) (c : Word) :
    AdjoinRoot.mk crcGenerator (crcPolynomial (crcLoop n c)) = AdjoinRoot.mk crcGenerator (X ^ n * crcPolynomial c) := by
  induction n generalizing c with
  | zero => rw [crcLoop, pow_zero, one_mul]
  | succ n ih =>
    have hshift : AdjoinRoot.mk crcGenerator (crcPolynomial (crcShift c)) =
        AdjoinRoot.mk crcGenerator (X * crcPolynomial c) := by
      rw [X_mul_crcPolynomial_eq_crcShift, map_add]
      split <;> simp
    rw [crcLoop, ih, pow_succ, mul_assoc, map_mul, map_mul, hshift]

theorem crcPolynomial_setWidth (b : Byte) : crcPolynomial (b.setWidth 32) = X ^ 24 * bytePolynomial b := by
  have hhigh : ∀ i ∈ Finset.range 24, (if (b.setWidth 32).getLsbD (8 + i) then X ^ (31 - (8 + i)) else 0) =
      (0 : (ZMod 2)[X]) := fun i _ => by simp
  rw [crcPolynomial, Finset.sum_range_add _ 8 24, Finset.sum_eq_zero hhigh, add_zero, bytePolynomial, Finset.mul_sum]
  refine Finset.sum_congr rfl fun j hj => ?_
  have hj8 : j < 8 := Finset.mem_range.1 hj
  have hexp : 31 - j = 24 + (7 - j) := by omega
  have hbit : (b.setWidth 32).getLsbD j = b.getLsbD j := by simp; omega
  rw [mul_ite, mul_zero, ← pow_add, hexp, hbit]

/-- The register after a sequence, modulo the generator: the sequence's bits enter at `x^32`, and each moves the register
up by one power. -/
theorem mk_crcPolynomial_crcUpdate (c : Word) (s : List Byte) :
    AdjoinRoot.mk crcGenerator (crcPolynomial (crcUpdate c s)) =
      AdjoinRoot.mk crcGenerator (messagePolynomial s * X ^ 32 + crcPolynomial c * X ^ (8 * s.length)) := by
  induction s generalizing c with
  | nil => simp [messagePolynomial]
  | cons b s ih =>
    have hstep : AdjoinRoot.mk crcGenerator (crcPolynomial (crcStep c b)) =
        AdjoinRoot.mk crcGenerator (X ^ 8 * (crcPolynomial c + X ^ 24 * bytePolynomial b)) := by
      rw [crcStep, mk_crcPolynomial_crcLoop, crcPolynomial_xor, crcPolynomial_setWidth]
    rw [crcUpdate_cons, ih, map_add, map_mul _ (crcPolynomial _), hstep, ← map_mul, ← map_add, messagePolynomial_cons,
      List.length_cons]
    exact congrArg _ (by ring)

/-- The polynomial in the register is its own remainder: two words of one residue class are equal. -/
theorem modByMonic_crcGenerator {p : (ZMod 2)[X]} {c : Word}
    (h : AdjoinRoot.mk crcGenerator (crcPolynomial c) = AdjoinRoot.mk crcGenerator p) :
    p %ₘ crcGenerator = crcPolynomial c := by
  have hself : crcPolynomial c %ₘ crcGenerator = crcPolynomial c :=
    (modByMonic_eq_self_iff crcGenerator_monic).2 ((crcPolynomial_degree_lt c).trans_eq crcGenerator_degree.symm)
  rw [← modByMonic_eq_of_dvd_sub crcGenerator_monic (AdjoinRoot.mk_eq_mk.1 h), hself]

theorem crcPolynomial_crcInit : crcPolynomial crcInit = ∑ i ∈ Finset.range 32, X ^ i := by
  rw [← Finset.sum_range_reflect, crcPolynomial]
  refine Finset.sum_congr rfl fun i hi => ?_
  have hbit : crcInit.getLsbD i = true := by
    have hones : crcInit = BitVec.allOnes 32 := rfl
    rw [hones, BitVec.getLsbD_allOnes, decide_eq_true (Finset.mem_range.1 hi)]
  rw [if_pos hbit]

/-- The final exclusive-or complements every bit (R183). -/
theorem getLsbD_crc32 (s : List Byte) {i : Nat} (hi : i < 32) :
    (crc32 s).getLsbD i = !(crcUpdate crcInit s).getLsbD i := by
  have hones : crcXorOut = BitVec.allOnes 32 := rfl
  rw [crc32, hones, BitVec.xor_allOnes, BitVec.getLsbD_not, decide_eq_true hi, Bool.true_and]

/-- Settles O35: the register before the final exclusive-or is the remainder (`mk_crcPolynomial_crcUpdate`,
`modByMonic_crcGenerator`). -/
theorem checksumIsPolynomialRemainder : Obligations.ChecksumIsPolynomialRemainder := by
  intro s M I G hM hI hG
  obtain rfl : M = messagePolynomial s := hM
  obtain rfl : I = crcPolynomial crcInit := hI.trans crcPolynomial_crcInit.symm
  obtain rfl : G = crcGenerator := hG
  rw [modByMonic_crcGenerator (mk_crcPolynomial_crcUpdate crcInit s), crcPolynomial]
  refine Finset.sum_congr rfl fun i hi => ?_
  rw [getLsbD_crc32 s (Finset.mem_range.1 hi)]
  cases (crcUpdate crcInit s).getLsbD i <;> rfl

end Sys2Proof.Machine
end

/-! ## TypeTag family: what a loaded and a valid tag answer (40_typetag.md R122) -/

section
namespace Sys2Proof.Machine

/-- Settles O27: TAGTXT ends without error only by loading four letters (`tagtxtEffect_cases`), and for four letters
validity is the reserved bit. -/
theorem tagFromTextIsValidWhenReservedBitIs : Obligations.TagFromTextIsValidWhenReservedBitIs := by
  intro s t hexec hok
  have ht : t = tagtxtEffect s := exec_eq_next hexec
  obtain h | h | ⟨g, hg, -, h⟩ := tagtxtEffect_cases s <;> rw [ht, h] at hok ⊢
  · exact absurd ((raise_verdict s _).1.symm.trans hok) (by decide)
  · exact absurd ((raise_verdict s _).1.symm.trans hok) (by decide)
  · have hanswer : tagValid g = reservedOk g := by rw [tagValid, hg, Bool.true_and]
    refine ⟨(allLetters_iff g).1 hg, _, exec_eq _ _, ?_⟩
    rw [exec_eq, effect, effect, State.done_tag, hanswer]

theorem AsciiLetter.lt {b : Byte} (h : AsciiLetter b) : b.toNat < 0x80 := by
  obtain ⟨-, h⟩ | ⟨-, h⟩ := h <;> omega

/-- Settles O28: letters are ASCII, which renders under both values of the parameter (`tagRenderable_iff`). -/
theorem validTagRenders : Obligations.ValidTagRenders := by
  intro s hvalid
  have hascii : ∀ b ∈ s.tag.toList, b.toNat < 0x80 := fun b hb => (hvalid.1 b hb).lt
  exact ⟨_, exec_eq _ s, (effect_tagstr_verdict s).2.trans (if_pos ((tagRenderable_iff _ _).2 (.inl hascii)))⟩

end Sys2Proof.Machine
end

/-! ## Records (41_chunk.md section 3) -/

section
namespace Sys2Proof.Machine

/-! ### What decodes -/

theorem recordHead_length (l : Word) (t : Bytes4) (p : List Byte) :
    ((bytesBe32 l).toList ++ t.toList ++ p).length = 8 + p.length := by
  simp; omega

theorem ValidTag.tagValid_ne_false {t : Bytes4} (h : ValidTag t) : ¬ tagValid t = false :=
  Bool.not_eq_false _ ▸ (tagValid_iff t).2 h

/-- A record with any checksum field and with bytes behind it, decoded by its fields (R143). -/
theorem decodeRecord_fields (t : Bytes4) {p : List Byte} (hp : p.length < 2 ^ 32) (c : Word) (x : List Byte) :
    decodeRecord ((bytesBe32 (BitVec.ofNat 32 p.length)).toList ++ t.toList ++ (p ++ ((bytesBe32 c).toList ++ x))) =
      if tagValid t = false then .invalidTag
      else if chunkCrc t p = c then .chunk t p else .checksumMismatch (chunkCrc t p) c := by
  have hlen : (p ++ ((bytesBe32 c).toList ++ x)).length = p.length + 4 + x.length := by simp; omega
  rw [decodeRecord_header, BitVec.toNat_ofNat, Nat.mod_eq_of_lt hp, hlen, if_neg (by omega),
    if_neg (by omega : ¬ p.length + 4 + x.length < p.length + 4), decodeBody_fields]

theorem encodeRecord_append (t : Bytes4) (p x : List Byte) :
    encodeRecord t p ++ x = (bytesBe32 (BitVec.ofNat 32 p.length)).toList ++ t.toList ++
      (p ++ ((bytesBe32 (chunkCrc t p)).toList ++ x)) := by
  simp [encodeRecord]

theorem decodeRecord_encodeRecord_append (t : Bytes4) {p : List Byte} (hp : p.length < 2 ^ 32) (x : List Byte) :
    decodeRecord (encodeRecord t p ++ x) = if tagValid t = false then .invalidTag else .chunk t p := by
  rw [encodeRecord_append, decodeRecord_fields t hp, if_pos rfl]

/-- The parser accepts exactly the records of valid tags, with any bytes behind them (R143, R149). -/
theorem decodeRecord_eq_chunk_iff {s : List Byte} {t : Bytes4} {p : List Byte} :
    decodeRecord s = .chunk t p ↔ ValidTag t ∧ p.length < 2 ^ 32 ∧ ∃ x, s = encodeRecord t p ++ x := by
  constructor
  · intro h
    have hlong := decodeRecord_chunk_length h
    obtain ⟨l, g, rest, rfl⟩ := exists_header (s := s) (by omega)
    rw [decodeRecord_header] at h
    split at h; · cases h
    split at h; · cases h
    split at h; · cases h
    next hvalid hbody =>
      obtain ⟨q, c, x, hq, rfl⟩ := exists_body (rest := rest) (n := l.toNat) (by omega)
      rw [← hq, decodeBody_fields] at h
      split at h
      · next hc =>
        cases h
        have hl : l = BitVec.ofNat 32 p.length := by rw [hq, BitVec.ofNat_toNat, BitVec.setWidth_eq]
        exact ⟨(tagValid_iff t).1 (Bool.of_not_eq_false hvalid), hq ▸ l.isLt, x,
          by rw [encodeRecord_append, ← hl, hc]⟩
      · cases h
  · rintro ⟨hvalid, hp, x, rfl⟩
    rw [decodeRecord_encodeRecord_append t hp, if_neg hvalid.tagValid_ne_false]

/-- Settles O43: the record decoded by its fields (`decodeRecord_encodeRecord_append`). -/
theorem recordRoundTrip : Obligations.RecordRoundTrip := by
  intro t p hp
  have hdecode := decodeRecord_encodeRecord_append t hp []
  rw [List.append_nil] at hdecode
  rw [hdecode]
  exact ⟨fun hvalid => if_neg hvalid.tagValid_ne_false,
    fun hbad => if_pos (Bool.eq_false_iff.2 (mt (tagValid_iff t).1 hbad))⟩

/-- Settles O44: see `decodeRecord_eq_chunk_iff`. -/
theorem decodedBytesAreTheRecord : Obligations.DecodedBytesAreTheRecord := by
  intro s t p h
  obtain ⟨-, -, x, hs⟩ := decodeRecord_eq_chunk_iff.1 h
  exact ⟨decodeRecord_chunk_length h, by rw [hs, ← encodeRecord_length t p, List.take_left]⟩

/-- More bytes cure only the two failures of length. -/
theorem decodeRecord_append {s : List Byte} (hshort : decodeRecord s ≠ .tooShort)
    (htrunc : decodeRecord s ≠ .truncatedPayload) (x : List Byte) : decodeRecord (s ++ x) = decodeRecord s := by
  have hlong : ¬ s.length < 12 := fun h => hshort (decodeRecord_of_short h)
  obtain ⟨l, t, rest, rfl⟩ := exists_header (s := s) (by omega)
  rw [List.append_assoc _ rest]
  simp only [decodeRecord_header, List.length_append] at hshort htrunc ⊢
  by_cases h4 : rest.length < 4
  · exact absurd (if_pos h4) hshort
  · rw [if_neg h4] at htrunc ⊢
    rw [if_neg (by omega)]
    split
    · rfl
    · next hvalid =>
      rw [if_neg hvalid] at htrunc
      by_cases hbody : rest.length < l.toNat + 4
      · exact absurd (if_pos hbody) htrunc
      · obtain ⟨p, c, y, hp, rfl⟩ := exists_body (rest := rest) (n := l.toNat) (by omega)
        rw [if_neg hbody, if_neg (by omega), ← hp, List.append_assoc p, List.append_assoc, decodeBody_fields,
          decodeBody_fields]

/-- Settles O46: none of the three results is a failure of length (`decodeRecord_append`). -/
theorem trailingBytesAreIgnored : Obligations.TrailingBytesAreIgnored := by
  intro s x
  have happend {r : DecodeResult} (h : decodeRecord s = r) (hshort : r ≠ .tooShort) (htrunc : r ≠ .truncatedPayload) :
      decodeRecord (s ++ x) = r :=
    (decodeRecord_append (h ▸ hshort) (h ▸ htrunc) x).trans h
  exact ⟨fun _ _ h => happend h nofun nofun, fun h => happend h nofun nofun, fun _ _ h => happend h nofun nofun⟩

/-- Settles O47: the altered record has the same fields but for its checksum (`decodeRecord_fields`). -/
theorem alteredChecksumIsReported : Obligations.AlteredChecksumIsReported := by
  intro t p c hp hvalid hc
  have htake : (encodeRecord t p).take (8 + p.length) =
      (bytesBe32 (BitVec.ofNat 32 p.length)).toList ++ t.toList ++ p := by
    rw [encodeRecord, ← recordHead_length, List.take_left]
  have hdecode := decodeRecord_fields t hp c []
  rw [List.append_nil, ← List.append_assoc _ p, ← htake] at hdecode
  rw [hdecode, if_neg hvalid.tagValid_ne_false, if_neg hc.symm]

/-! ### On the block -/

/-- Settles O45: ENCODE leaves the record in SB (`effect_encode_sbBytes`), which decodes to the chunk it was made of. -/
theorem encodeThenDecodeKeepsChunk : Obligations.EncodeThenDecodeKeepsChunk := by
  intro s hinv hvalid
  have hdecode : decodeRecord (effect .encode s).sbBytes = .chunk s.tag s.pay := by
    rw [effect_encode_sbBytes hinv]
    exact (recordRoundTrip s.tag s.pay hinv.len_lt).1 hvalid
  have hlen : BitVec.ofNat 32 s.pay.length = s.len := by rw [← hinv.len_eq, BitVec.ofNat_toNat, BitVec.setWidth_eq]
  refine ⟨effect .decode (effect .encode s), by simp only [execAll, exec_eq], ?_⟩
  rw [effect_decode_of_eq hdecode]
  exact ⟨done_err_toNat _, rfl, hlen, rfl⟩

/-- Settles O48: DECODE ends without error only with a chunk (`deliver_cases`), whose record then stands at the head of SB
(`decodeRecord_eq_chunk_iff`). -/
theorem decodedChunkIsSelfConsistent : Obligations.DecodedChunkIsSelfConsistent := by
  intro s t _ hexec hok
  have ht : t = deliver (decodeRecord s.sbBytes) s := exec_eq_next hexec
  obtain ⟨e, he, h⟩ | ⟨e, a, -, h⟩ | ⟨g, p, hr, h⟩ := deliver_cases (decodeRecord s.sbBytes) s <;> rw [ht, h] at hok ⊢
  · obtain rfl | rfl | rfl := he <;> exact absurd ((raise_verdict s _).1.symm.trans hok) (by decide)
  · exact absurd ((congrArg BitVec.toNat (s.raiseMismatch_err e a)).symm.trans hok) (by decide)
  · obtain ⟨hvalid, hp, x, hs⟩ := decodeRecord_eq_chunk_iff.1 hr
    refine ⟨hvalid, ?_⟩
    rw [State.done_len, State.writePay_len_toNat _ hp]
    rw [encodeRecord_append, ← List.append_assoc _ p] at hs
    exact recordHead_length _ g p ▸ FieldAt.of_append hs

end Sys2Proof.Machine
end

/-! ## Command sequences (30_encoding.md R91, 42_crc32.md R189, 43_buffers.md) -/

section
namespace Sys2Proof.Machine

/-- The state a command sequence leads to. -/
def effects (is : List Instr) (s : State) : State := is.foldl (fun t i => effect i t) s

@[simp] theorem effects_nil (s : State) : effects [] s = s := rfl

@[simp] theorem effects_cons (i : Instr) (is : List Instr) (s : State) :
    effects (i :: is) s = effects is (effect i s) := rfl

theorem effects_append (is js : List Instr) (s : State) : effects (is ++ js) s = effects js (effects is s) :=
  List.foldl_append

/-- Every command sequence completes (R245). -/
theorem execAll_eq (is : List Instr) (s : State) : execAll is s = .next (effects is s) := by
  induction is generalizing s with
  | nil => rfl
  | cons i is ih => rw [execAll, exec_eq]; exact ih _

/-! ### The bytes fed to the CRC register -/

theorem fedBytes_map_crcb (x : List Byte) : fedBytes (x.map .crcb) = x := by
  rw [fedBytes, List.filterMap_map]
  exact List.filterMap_some

/-- A command but CRCINIT moves the CRC register by the byte it feeds, if it feeds one. -/
theorem effect_crc {i : Instr} (h : i ≠ .crcinit) (s : State) : (effect i s).crc = crcUpdate s.crc (fedBytes [i]) := by
  obtain ⟨-, -, -, hframe⟩ := onlyListedCommandsWriteEachComponent i s _ (exec_eq i s)
  cases i with
  | crcinit => exact absurd rfl h
  | crcb b => exact (crcUpdate_cons s.crc b []).symm
  | _ => exact hframe .crc (by simp [Instr.mnemonic, writers])

theorem effects_crc {is : List Instr} (h : .crcinit ∉ is) (s : State) :
    (effects is s).crc = crcUpdate s.crc (fedBytes is) := by
  induction is generalizing s with
  | nil => rfl
  | cons i is ih =>
    obtain ⟨hi, his⟩ := not_or.1 (mt List.mem_cons.2 h)
    have hfed : fedBytes (i :: is) = fedBytes [i] ++ fedBytes is := List.filterMap_append (l := [i])
    rw [effects_cons, ih his, effect_crc (Ne.symm hi), hfed, crcUpdate_append]

/-- Settles O36: CRCINIT starts the register, the sequence moves it by the bytes fed (`effects_crc`), and CRCFIN delivers
it. -/
theorem crcRegisterAccumulatesFedBytes : Obligations.CrcRegisterAccumulatesFedBytes := by
  intro s is his
  have hcrc : (effects (.crcinit :: is) s).crc = crcUpdate crcInit (fedBytes is) := effects_crc his _
  exact ⟨_, _, execAll_eq _ s, hcrc, exec_eq _ _, congrArg (· ^^^ crcXorOut) hcrc, rfl⟩

/-- Settles O37: the sequence feeds exactly the chunk's bytes (`fedBytes_map_crcb`). -/
theorem crc32OfChunkBytesEqualsCsum : Obligations.Crc32OfChunkBytesEqualsCsum := by
  intro s
  have hfed (x : List Byte) : (effects (pseudoCrc32 x) s).res = crc32 x := by
    have hcrc := effects_crc (is := x.map .crcb) (by simp) (effect .crcinit s)
    rw [fedBytes_map_crcb] at hcrc
    rw [pseudoCrc32, effects_append]
    exact congrArg (· ^^^ crcXorOut) hcrc
  exact ⟨_, _, execAll_eq _ s, exec_eq _ s, hfed _, hfed _⟩

/-! ### The bytes pushed into a buffer -/

/-- A buffer of capacity `cap`, its fill count and ERR after the bytes `x` are pushed into it empty: it holds the first
`cap` bytes, and ERR shows Capacity when there are more (R212, R214). -/
structure Pushed (cap : Nat) (x held : List Byte) (count err : Nat) : Prop where
  held_eq : held = x.take cap
  count_eq : count = held.length
  err_eq : err = if x.length ≤ cap then 0 else 14

section
variable {cap count err : Nat} {x held : List Byte}

theorem Pushed.nil (h : err = 0) : Pushed cap [] [] 0 err :=
  ⟨List.take_nil.symm, rfl, h.trans (if_pos (Nat.zero_le _)).symm⟩

theorem Pushed.count_eq_min (h : Pushed cap x held count err) : count = min x.length cap := by
  rw [h.count_eq, h.held_eq, List.length_take, Nat.min_comm]

/-- One more byte, into a buffer that has room. -/
theorem Pushed.room (h : Pushed cap x held count err) (b : Byte) (hroom : count < cap) :
    Pushed cap (x ++ [b]) (held ++ [b]) (count + 1) 0 := by
  have hx : x.length < cap := by have := h.count_eq_min; omega
  have hlen : (x ++ [b]).length ≤ cap := by simp; omega
  have hheld : held = x := h.held_eq.trans (List.take_of_length_le hx.le)
  exact ⟨by rw [hheld, List.take_of_length_le hlen], by simp [h.count_eq], (if_pos hlen).symm⟩

/-- One more byte, into a full buffer. -/
theorem Pushed.full (h : Pushed cap x held count err) (b : Byte) (hfull : cap ≤ count) :
    Pushed cap (x ++ [b]) held count 14 := by
  have hx : cap ≤ x.length := by have := h.count_eq_min; omega
  exact ⟨by rw [h.held_eq, List.take_append_of_le_length hx], h.count_eq, (if_neg (by simp; omega)).symm⟩

end

theorem Pushed.effect_pushp {t : State} {x : List Byte} {err : Nat}
    (h : Pushed t.params.payCap.val x t.pay t.len.toNat err) (b : Byte) :
    Pushed t.params.payCap.val (x ++ [b]) (effect (.pushp b) t).pay (effect (.pushp b) t).len.toNat
      (effect (.pushp b) t).err.toNat := by
  obtain hroom | hfull := Nat.lt_or_ge t.len.toNat t.params.payCap.val
  · have hbytes : t.payBytes = t.pay := by rw [State.payBytes, h.count_eq, List.take_length]
    rw [effect_pushp_of_room b hroom, State.done_pay, State.appendPay_pay, hbytes, State.done_len,
      t.appendPay_len_toNat b hroom, done_err_toNat]
    exact h.room b hroom
  · rw [effect_pushp_of_full b hfull, (raise_verdict t _).1]
    exact h.full b hfull

theorem Pushed.effect_pushs {t : State} {x : List Byte} {err : Nat}
    (h : Pushed t.params.sbCap x t.sb t.slen.toNat err) (b : Byte) :
    Pushed t.params.sbCap (x ++ [b]) (effect (.pushs b) t).sb (effect (.pushs b) t).slen.toNat
      (effect (.pushs b) t).err.toNat := by
  obtain hroom | hfull := Nat.lt_or_ge t.slen.toNat t.params.sbCap
  · have hbytes : t.sbBytes = t.sb := by rw [State.sbBytes, h.count_eq, List.take_length]
    rw [effect_pushs_of_room b hroom, State.done_sb, State.appendSb_sb, hbytes, State.done_slen,
      t.appendSb_slen_toNat b hroom, done_err_toNat]
    exact h.room b hroom
  · rw [effect_pushs_of_full b hfull, (raise_verdict t _).1]
    exact h.full b hfull

/-- What one command for each byte of a sequence does, by induction on the bytes already presented. -/
theorem effects_map_induction {command : Byte → Instr} {P : List Byte → State → Prop} {s : State} (hnil : P [] s)
    (hsnoc : ∀ x b t, P x t → P (x ++ [b]) (effect (command b) t)) (x : List Byte) :
    P x (effects (x.map command) s) := by
  induction x using List.reverseRecOn with
  | nil => exact hnil
  | append_singleton x b ih =>
    rw [List.map_append, effects_append]
    exact hsnoc x b _ ih

/-- `t` is a state that pushing `x` into the emptied PAY of `s` can leave. -/
def PayAfter (s : State) (x : List Byte) (t : State) : Prop :=
  t.params = s.params ∧ t.tag = s.tag ∧ Pushed s.params.payCap.val x t.pay t.len.toNat t.err.toNat

/-- `t` is a state that pushing `x` into the emptied SB of `s` can leave. -/
def SbAfter (s : State) (x : List Byte) (t : State) : Prop :=
  t.params = s.params ∧ Pushed s.params.sbCap x t.sb t.slen.toNat t.err.toNat

theorem effects_pseudoPayload (s : State) (x : List Byte) : PayAfter s x (effects (pseudoPayload x) s) := by
  refine effects_map_induction (s := effect .clrp s) ⟨rfl, rfl, .nil (done_err_toNat _)⟩ ?_ x
  rintro x b t ⟨hparams, htag, hpushed⟩
  obtain ⟨hparams', -, -, hframe⟩ := onlyListedCommandsWriteEachComponent (.pushp b) t _ (exec_eq _ t)
  have htag' : (effect (.pushp b) t).tag = t.tag := hframe .tag (by simp [Instr.mnemonic, writers])
  rw [← hparams] at hpushed
  exact ⟨hparams'.trans hparams, htag'.trans htag, hparams ▸ hpushed.effect_pushp b⟩

theorem effects_pseudoStream (s : State) (x : List Byte) : SbAfter s x (effects (pseudoStream x) s) := by
  refine effects_map_induction (s := effect .clrs s) ⟨rfl, .nil (done_err_toNat _)⟩ ?_ x
  rintro x b t ⟨hparams, hpushed⟩
  obtain ⟨hparams', -⟩ := onlyListedCommandsWriteEachComponent (.pushs b) t _ (exec_eq _ t)
  rw [← hparams] at hpushed
  exact ⟨hparams'.trans hparams, hparams ▸ hpushed.effect_pushs b⟩

/-- Settles O53: LDTAG loads the tag, and the payload sequence keeps it and fills PAY (`effects_pseudoPayload`). -/
theorem chunkSequenceConstructsChunk : Obligations.ChunkSequenceConstructsChunk := by
  intro s arg p
  obtain ⟨-, htag, hpushed⟩ := effects_pseudoPayload (effect (.ldtag arg) s) p
  refine ⟨_, execAll_eq _ s, ?_, hpushed.held_eq, hpushed.count_eq_min, hpushed.err_eq⟩
  exact (congrArg be32 htag).trans (be32_bytesBe32 arg)

/-- The stream buffer after `STREAM x`: the first SB_CAP bytes of `x` (R215). -/
theorem effects_pseudoStream_sbBytes (s : State) (x : List Byte) :
    (effects (pseudoStream x) s).sbBytes = x.take s.params.sbCap := by
  obtain ⟨-, hpushed⟩ := effects_pseudoStream s x
  rw [State.sbBytes, hpushed.count_eq, List.take_length, hpushed.held_eq]

/-- Settles O54: DECODE delivers the result on the bytes the stream holds (`effects_pseudoStream_sbBytes`). -/
theorem decodeofDecodesPresentedBytes : Obligations.DecodeofDecodesPresentedBytes := by
  intro s x
  refine ⟨effect .decode (effects (pseudoStream x) s), ?_, ?_⟩
  · rw [execAll_eq, pseudoDecodeof, effects_append, effects_cons, effects_nil]
  · have hsb : (effects (pseudoStream x) s).sbBytes = x.take (s.params.payCap.val + 12) :=
      effects_pseudoStream_sbBytes s x
    generalize effects (pseudoStream x) s = t at hsb ⊢
    rw [← hsb]
    refine ⟨fun g p h => ?_, fun h => ?_, fun h => ?_, fun h => ?_, fun e a h => ?_⟩ <;> rw [effect_decode_of_eq h]
    · obtain ⟨-, hp, -⟩ := decodeRecord_eq_chunk_iff.1 h
      exact ⟨done_err_toNat _, rfl, rfl, State.writePay_len_toNat { t with tag := g } hp⟩
    · exact (raise_verdict t _).1
    · exact (raise_verdict t _).1
    · exact (raise_verdict t _).1
    · exact ⟨congrArg BitVec.toNat (t.raiseMismatch_err e a), rfl, rfl⟩

end Sys2Proof.Machine
end
